-- ==== Sys2Proof/Word.lean ====
section
/-! DEFINITION. The word widths of the RC5-DEC core and the words of each (00_scope.md R7, 40_word_ops.md R90). -/

namespace Sys2Proof

/-- The word widths the block implements, W in 16, 32, 64 (00_scope.md R2, R7). -/
inductive Width where
  | w16
  | w32
  | w64
deriving DecidableEq, Repr, Inhabited

/-- W, the word width in bits (R7). -/
def Width.bits : Width → Nat
  | .w16 => 16
  | .w32 => 32
  | .w64 => 64

/-- u = W/8, the word width in bytes (R7). -/
def Width.bytes : Width → Nat
  | .w16 => 2
  | .w32 => 4
  | .w64 => 8

/-- A Word: an unsigned integer of W bits (R90). Arithmetic on it wraps modulo 2^W. -/
abbrev Word (W : Width) := BitVec W.bits

/-- One byte of the key buffer. -/
abbrev Byte := BitVec 8

/-- The value of a 32-bit register of the window (10_state.md R22). -/
abbrev Reg32 := BitVec 32

end Sys2Proof
end

