-- ==== Sys2Proof/Syntax.lean ====
section
/-! DEFINITION. The commands of the block: one constructor for each row of spec/opcode_table.json (30_encoding.md R76). -/

namespace Sys2Proof

/-- The five commands (30_encoding.md R70, R76). EXPAND carries its three operand fields as the word holds them (R72): the
width select, the round count and the key length. WSEL = 3 and R = 0 are in EXPAND's row of the table and are rejected when
the command is issued (R76, R78), so they are terms of this type. -/
inductive Instr where
  | nop
  | keyclr
  | expand (wsel : BitVec 2) (r b : BitVec 8)
  | decrypt
  | clear
deriving DecidableEq, Repr

end Sys2Proof
end

