-- ==== Sys2Proof/WellFormed.lean ====
section
/-! DEFINITION. Which commands an assembler writes (30_encoding.md R80). -/

namespace Sys2Proof

/-- EXPAND's width select names a width: it is not 0b11 (R74, R80). -/
def Instr.widthLegal : Instr → Bool
  | .expand wsel _ _ => wsel != 3#2
  | .nop => true
  | .keyclr => true
  | .decrypt => true
  | .clear => true

/-- EXPAND's round count lies in 1..255: it is not 0 (R75, R80). Every key length 0..255 is legal. -/
def Instr.roundsLegal : Instr → Bool
  | .expand _ r _ => r != 0#8
  | .nop => true
  | .keyclr => true
  | .decrypt => true
  | .clear => true

/-- A command that the assembler syntax of R80 can write. The block itself takes any word: an EXPAND that is not
well-formed is rejected with BAD_W or BAD_R (43_control.md R136). -/
def Instr.wf (i : Instr) : Bool := i.widthLegal && i.roundsLegal

end Sys2Proof
end

