-- ==== Sys2Proof/Decode.lean ====
section
/-! DEFINITION. Command words: the fields, the opcode map, the decoder (total on 32-bit words) and the encoder (30_encoding.md). -/

namespace Sys2Proof

/-! ### The fields of a command word (R70) -/

/-- OP = v[3:0], decoded first (R71). -/
def fieldOp (v : BitVec 32) : BitVec 4 := v.extractLsb' 0 4

/-- WSEL = v[5:4] (R72). -/
def fieldWsel (v : BitVec 32) : BitVec 2 := v.extractLsb' 4 2

/-- R = v[13:6] (R72). -/
def fieldR (v : BitVec 32) : BitVec 8 := v.extractLsb' 6 8

/-- B = v[21:14] (R72). -/
def fieldB (v : BitVec 32) : BitVec 8 := v.extractLsb' 14 8

/-- RSV = v[31:22], EXPAND's reserved bits (R72). -/
def fieldRsv (v : BitVec 32) : BitVec 10 := v.extractLsb' 22 10

/-- v[31:4], the reserved bits of every command other than EXPAND (R73). -/
def fieldRest (v : BitVec 32) : BitVec 28 := v.extractLsb' 4 28

/-! ### The opcode map -/

/-- A row of the opcode map: a word v is in the row exactly when (v and mask) = pattern (R76). -/
structure OpcodeRow where
  mnemonic : String
  pattern  : BitVec 32
  mask     : BitVec 32
deriving DecidableEq, Repr

/-- v is in the row (R76). -/
def OpcodeRow.holds (row : OpcodeRow) (v : BitVec 32) : Bool := v &&& row.mask == row.pattern

def rowNop     : OpcodeRow := ⟨"NOP",     0x00000000#32, 0xFFFFFFFF#32⟩
def rowKeyclr  : OpcodeRow := ⟨"KEYCLR",  0x00000001#32, 0xFFFFFFFF#32⟩
def rowExpand  : OpcodeRow := ⟨"EXPAND",  0x00000002#32, 0xFFC0000F#32⟩
def rowDecrypt : OpcodeRow := ⟨"DECRYPT", 0x00000003#32, 0xFFFFFFFF#32⟩
def rowClear   : OpcodeRow := ⟨"CLEAR",   0x00000004#32, 0xFFFFFFFF#32⟩

/-- The opcode map of R76. -/
def opcodeTable : List OpcodeRow := [rowNop, rowKeyclr, rowExpand, rowDecrypt, rowClear]

/-- The row a command stands in (R76). -/
def Instr.row : Instr → OpcodeRow
  | .nop => rowNop
  | .keyclr => rowKeyclr
  | .expand _ _ _ => rowExpand
  | .decrypt => rowDecrypt
  | .clear => rowClear

/-! ### Decoding -/

/-- What a 32-bit word is: one of the commands, or a word that is none, under the name of what is wrong with it. -/
inductive Decoded where
  /-- One of the five commands (R76). -/
  | command (i : Instr)
  /-- OP is 5..15 (R77). -/
  | illegalOp
  /-- OP is 0, 1, 3 or 4 and v[31:4] is not 0 (R73, R78). -/
  | reservedBits
  /-- OP is 2 and v[31:22] is not 0 (R78). The issue checks treat it apart: the subkey table is dropped. -/
  | reservedBitsExpand
deriving DecidableEq, Repr

/-- A command with no operand fields: every bit above OP must be 0 (R73). -/
def decodeBare (v : BitVec 32) (i : Instr) : Decoded :=
  if fieldRest v = 0 then .command i else .reservedBits

/-- EXPAND's operand fields, its reserved bits checked (R72, R78). -/
def decodeExpand (v : BitVec 32) : Decoded :=
  if fieldRsv v = 0 then .command (.expand (fieldWsel v) (fieldR v) (fieldB v)) else .reservedBitsExpand

/-- What the word v is. OP is decoded first and no state changes how it is decoded (R71). Every one of the 2^32 words has
one answer; no encoding is a hint or reserved for later use (R77, R79). -/
def decodeWord (v : BitVec 32) : Decoded :=
  match (fieldOp v).toNat with
  | 0 => decodeBare v .nop
  | 1 => decodeBare v .keyclr
  | 2 => decodeExpand v
  | 3 => decodeBare v .decrypt
  | 4 => decodeBare v .clear
  | _ => .illegalOp

/-- The 32-bit word whose low nbits bits are those of w and whose other bits are 0. -/
def tableWord (nbits w : Nat) : BitVec 32 := BitVec.ofNat 32 (w % 2 ^ nbits)

/-- The command that the decoder reads from a word whose bits are numbered as spec/opcode_table.json numbers them. -/
def decodeTableWord (nbits w : Nat) : Option Instr :=
  match decodeWord (tableWord nbits w) with
  | .command i => some i
  | .illegalOp => none
  | .reservedBits => none
  | .reservedBitsExpand => none

/-! ### Encoding -/

/-- The word of a command (R72, R73, R80). -/
def encode : Instr → BitVec 32
  | .nop => 0x00000000#32
  | .keyclr => 0x00000001#32
  | .expand wsel r b =>
      (b.setWidth 32 <<< 14) ||| (r.setWidth 32 <<< 6) ||| (wsel.setWidth 32 <<< 4) ||| 0x2#32
  | .decrypt => 0x00000003#32
  | .clear => 0x00000004#32

end Sys2Proof
end

