-- ==== Sys2Proof/Machine/State.lean ====
section
/-! DEFINITION. The state of the block (10_state.md), what reaches it from outside (20_memory.md R50, 00_scope.md R6), the ways
a step can stop, and the state after reset (10_state.md R44). -/

namespace Sys2Proof.Machine

/-! ### Registers -/

/-- The codes STATUS.ERR can hold (60_exceptions.md R152). Codes 7..15 are never recorded, so they have no constructor. -/
inductive ErrCode where
  | none
  | illegalOp
  | rsvdNz
  | badW
  | badR
  | noKey
  | busy
deriving DecidableEq, Repr, Inhabited

/-- The accepted command that PEND holds while BUSY = 1 (10_state.md R42). EXPAND's WSEL is held as the width it names: a
command with WSEL = 3 is never accepted (43_control.md R136). -/
inductive Pending where
  | keyclr
  | expand (W : Width) (r b : BitVec 8)
  | decrypt
  | clear
deriving DecidableEq, Repr

/-- The hidden datapath state (10_state.md R41): the key word scratch, the working words, the two indices and the iteration
counters of key mixing (up to 1536) and of the round loop (up to 255). No host access reaches any of it. -/
structure Datapath where
  l          : Vector (BitVec 64) 128
  a          : BitVec 64
  b          : BitVec 64
  i          : Fin 512
  j          : Fin 128
  mixCount   : Fin 1537
  roundCount : Fin 256
deriving DecidableEq, Repr, Inhabited

/-- The hidden state all 0, as reset and CLEAR leave it (R41, R44). -/
def Datapath.zero : Datapath :=
  { l := Vector.replicate 128 0, a := 0, b := 0, i := 0, j := 0, mixCount := 0, roundCount := 0 }

/-- The registers of the window (10_state.md R22). reserved stands for every offset the map does not name. -/
inductive RegName where
  | id
  | cap
  | ctrl
  | status
  | cmd
  | skidx
  | skdataLo
  | skdataHi
  | data (k : Fin 4)
  | key (k : Fin 64)
  | reserved
deriving DecidableEq, Repr

/-! ### What reaches the block from outside -/

/-- What a bus access does (20_memory.md R50). -/
inductive AccessKind where
  | read
  | write (v : Reg32)
deriving DecidableEq, Repr

/-- One entry of the interleaving of host, engine and platform (00_scope.md R6; log 1). -/
inductive Input where
  /-- A bus access at a byte offset of the window, so many bytes wide (20_memory.md R50, R52). -/
  | port (off : BitVec 12) (bytes : Nat) (kind : AccessKind)
  /-- A bus access at an address of the host's address space (20_memory.md R51). -/
  | bus (addr : Nat) (bytes : Nat) (kind : AccessKind)
  /-- The engine's turn (43_control.md R137). Where it stands in the list is the command's LATENCY (00_scope.md R8). -/
  | engine
  /-- The platform asserts reset (70_reset_and_hazards.md R170). -/
  | reset
deriving DecidableEq, Repr

/-- The bus response of the last access served (log 13). A bus error is no response here: it is a fault. -/
inductive Response where
  | none
  | data (v : Reg32)
  | written
deriving DecidableEq, Repr

/-! ### The state -/

/-- Every piece of state the spec gives the block (10_state.md R44), and three fields of the model's own at the end.
Plain data. -/
structure State where
  /-- CTRL.IE_DONE (R25). -/
  ieDone : Bool
  /-- CTRL.IE_ERR (R25). -/
  ieErr  : Bool
  /-- STATUS.DONE (R28). -/
  done   : Bool
  /-- STATUS.SKV (R29). -/
  skv    : Bool
  /-- STATUS.ERRV (R30). -/
  errv   : Bool
  /-- STATUS.ERR (R30). -/
  err    : ErrCode
  /-- STATUS.CUR_WSEL (R31), as the width it names. -/
  curW   : Width
  /-- STATUS.CUR_R (R31). -/
  curR   : BitVec 8
  /-- SKIDX.IDX (R34). -/
  skidx  : BitVec 9
  /-- BLK, the block buffer (R36, R40). -/
  blk    : BitVec 128
  /-- K, the key buffer (R37, R39). -/
  key    : Vector Byte 256
  /-- S, the subkey store (R38). -/
  sub    : Vector (BitVec 64) 512
  /-- PEND, and with it BUSY: a command is pending exactly when BUSY = 1 (R42). -/
  pend   : Option Pending
  /-- The hidden datapath state (R41). -/
  dp     : Datapath
  /-- MODEL'S OWN: what reaches the block in the steps to come, first one first (log 1). -/
  inputs : List Input
  /-- MODEL'S OWN: the bus response of the last access served (log 13). -/
  resp   : Response
  /-- MODEL'S OWN: the number of the next free value (log 7, log 8). -/
  draws  : Nat
deriving DecidableEq, Repr

/-- STATUS.BUSY (R27): an accepted command awaits completion (R42: BUSY and PEND are one field). -/
def State.busy (s : State) : Bool := s.pend.isSome

/-! ### The ways a step can stop -/

/-- The faults. -/
inductive Fault where
  /-- Raised by a bus access that is misaligned or not 32 bits wide: the bus error response (20_memory.md R52). No state of
  the block changes. Safe: the run stops where the host's program is at fault (log 4). -/
  | busError (off : BitVec 12)
deriving DecidableEq, Repr

/-- The refusals. -/
inductive Refusal where
  /-- Raised by exec for a command that has no meaning yet. Safe. No arm of this model raises it. -/
  | notModelled (mnemonic : String)
deriving DecidableEq, Repr

/-- The result of a step. -/
abbrev Result := Host.Outcome State Fault Refusal

/-! ### Reset -/

/-- The state after reset (10_state.md R44, 70_reset_and_hazards.md R170): every value is the spec's, but for the model's own
inputs, resp and draws (log 3, log 7, log 13). -/
def State.reset : State :=
  { ieDone := false, ieErr := false
    done := false, skv := false, errv := false, err := .none, curW := .w16, curR := 0
    skidx := 0
    blk := 0
    key := Vector.replicate 256 0
    sub := Vector.replicate 512 0
    pend := none
    dp := .zero
    inputs := [], resp := .none, draws := 0 }

end Sys2Proof.Machine
end

