-- ==== Sys2Proof/Config.lean ====
section
/-! DEFINITION. What the spec leaves open (92_eei_decisions.md, its open parameters; 93_implementation_defined.md, its
'any value' entries): constants with no body, so that nothing can be proved of their values. LATENCY, the other open
parameter, is data: the place of the engine's turn in State.inputs (log 1). -/

namespace Sys2Proof.Config

/-- RC5_BASE divided by 0x1000 (20_memory.md R51: RC5_BASE is OPEN and a multiple of 0x1000; log 5). -/
opaque rc5Page : Nat

/-- RC5_BASE, the base address of the register window (R51). -/
def rc5Base : Nat := rc5Page * 0x1000

/-- The n-th value that a read of KEYk, DATAk, SKDATA_LO or SKDATA_HI returns while BUSY = 1: a free draw
(70_reset_and_hazards.md R176, I2; log 7). -/
opaque freeRead : Nat → Reg32

/-- The hidden datapath state that a completion of EXPAND or DECRYPT leaves: a free value (10_state.md R41, I9; log 8). -/
opaque freeDatapath : Nat → Machine.Datapath

end Sys2Proof.Config
end

