-- ==== Sys2Proof/Machine/Ops.lean ====
section
/-! DEFINITION. The operations the commands and the bus port share: bit slices, the subkey store, recording a command error and
acknowledging it, accepting a command and finishing it. -/

namespace Sys2Proof.Machine

/-! ### Bit slices (00_scope.md R9) -/

/-- x with the slice of v's width from bit lo on replaced by v. -/
def setSlice {n w : Nat} (x : BitVec n) (lo : Nat) (v : BitVec w) : BitVec n :=
  (x &&& ~~~((BitVec.allOnes w).setWidth n <<< lo)) ||| (v.setWidth n <<< lo)

/-- Byte k of a register's value: bits 8k+7..8k (20_memory.md R53). -/
def byteLane (v : Reg32) (k : Nat) : Byte := v.extractLsb' (8 * k) 8

/-! ### The subkey store -/

/-- S[i], for an index 0..511 (10_state.md R38). Past the store there is no entry; no rule reads one. -/
def State.subAt (s : State) (i : Nat) : BitVec 64 := s.sub[i]?.getD 0

/-- kill_table: the SubkeyTable is no longer valid (43_control.md R136). S itself keeps its entries, which nothing can observe
while SKV = 0 (10_state.md R45). -/
def killTable (s : State) : State := { s with skv := false, curW := .w16, curR := 0 }

/-! ### Command errors -/

/-- raise CmdError(code): the first error since the last clear is recorded, a later one is lost (60_exceptions.md R151). This is
the block's whole error entry: nothing is saved, no vector is taken, no control is transferred (R150, R154). -/
def raiseCmdError (code : ErrCode) (s : State) : State :=
  if s.errv then s else { s with errv := true, err := code }

/-- Acknowledging the recorded error, the block's only error return (R155): ERRV and ERR become 0 (10_state.md R30). -/
def clearError (s : State) : State := { s with errv := false, err := .none }

/-- A rejected EXPAND drops the table before its error is recorded (43_control.md R136; 60_exceptions.md R152). -/
def rejectExpand (code : ErrCode) (s : State) : State := raiseCmdError code (killTable s)

/-! ### The life of a command -/

/-- Acceptance of a command other than NOP: it is pending, BUSY is 1 and DONE is 0 (43_control.md R136). -/
def accept (p : Pending) (s : State) : State := { s with pend := some p, done := false }

/-- The end of a completion: PEND is emptied, BUSY is 0 and DONE is 1 (43_control.md R137). -/
def finish (s : State) : State := { s with pend := none, done := true }

/-- The datapath's registers after a completion that used them: unspecified, so a fresh free value (10_state.md R41; log 8). -/
def scrambleDatapath (s : State) : State := { s with dp := Config.freeDatapath s.draws, draws := s.draws + 1 }

/-! ### The bus port's side -/

/-- The bus response of the access just served (log 13). -/
def respond (resp : Response) (s : State) : State := { s with resp := resp }

/-- The next input is taken off the list (log 1). After a bus error, at which step stops, this is the state in which the host's
program goes on: the access that got it is gone and nothing else has changed (00_scope.md R10, 20_memory.md R52; log 4). -/
def takeInput (s : State) : State := { s with inputs := s.inputs.tail }

/-- One more free value has been used. -/
def useDraw (s : State) : State := { s with draws := s.draws + 1 }

end Sys2Proof.Machine
end

