-- ==== Sys2Proof/Machine/Flags.lean ====
section
/-! DEFINITION. STATUS and CTRL as words, the write actions on them, and the interrupt output (10_state.md R25 to R32,
60_exceptions.md R156 to R158). -/

namespace Sys2Proof.Machine

/-- The 4-bit code of an error (60_exceptions.md R152). -/
def ErrCode.code : ErrCode → BitVec 4
  | .none => 0x0#4
  | .illegalOp => 0x1#4
  | .rsvdNz => 0x2#4
  | .badW => 0x3#4
  | .badR => 0x4#4
  | .noKey => 0x5#4
  | .busy => 0x6#4

/-- The WSEL value of a width (30_encoding.md R74). -/
def wselOf : Width → BitVec 2
  | .w16 => 0b00#2
  | .w32 => 0b01#2
  | .w64 => 0b10#2

/-- A one-bit field. -/
def flagBit (f : Bool) : BitVec 1 := BitVec.ofBool f

/-- STATUS as a read gives it (10_state.md R26): CUR_R, 6 zeros, CUR_WSEL, 4 zeros, ERR, 4 zeros, ERRV, SKV, DONE, BUSY. -/
def State.statusWord (s : State) : Reg32 :=
  s.curR ++ 0#6 ++ wselOf s.curW ++ 0#4 ++ s.err.code ++ 0#4 ++
    flagBit s.errv ++ flagBit s.skv ++ flagBit s.done ++ flagBit s.busy

/-- CTRL as a read gives it (R25): 30 zeros, IE_ERR, IE_DONE. -/
def State.ctrlWord (s : State) : Reg32 := 0#30 ++ flagBit s.ieErr ++ flagBit s.ieDone

/-- A write to CTRL sets both enables at once, whatever BUSY is (R25). -/
def writeCtrl (v : Reg32) (s : State) : State := { s with ieDone := v.getLsbD 0, ieErr := v.getLsbD 1 }

/-- W1C of STATUS bit 1 (R28, R32). -/
def clearDone (s : State) : State := { s with done := false }

/-- A write to STATUS: bit 1 clears DONE, bit 3 clears ERRV and ERR, every other bit is ignored, whatever BUSY is (R32). -/
def writeStatus (v : Reg32) (s : State) : State :=
  let s₁ := if v.getLsbD 1 then clearDone s else s
  if v.getLsbD 3 then clearError s₁ else s₁

/-- The IRQ output: an active-high level, a function of the state (60_exceptions.md R158, 10_state.md R43). -/
def State.irq (s : State) : Bool := (s.done && s.ieDone) || (s.errv && s.ieErr)

end Sys2Proof.Machine
end

