-- ==== Sys2Proof/Machine/Operands.lean ====
section
/-! DEFINITION. Operand forms and register views: the width select, the register map, the words of the block buffer, the bytes
of the key buffer and the subkey readback. -/

namespace Sys2Proof.Machine

/-- decodeW: the width that a WSEL value names, none for 0b11 (30_encoding.md R74). -/
def decodeW (wsel : BitVec 2) : Option Width :=
  match wsel.toNat with
  | 0 => some .w16
  | 1 => some .w32
  | 2 => some .w64
  | _ => none

/-! ### The register map -/

/-- The register at a 4-byte-aligned byte offset of the window (10_state.md R22). -/
def regAt (off : BitVec 12) : RegName :=
  match off.toNat / 4 with
  | 0 => .id
  | 1 => .cap
  | 2 => .ctrl
  | 3 => .status
  | 4 => .cmd
  | 5 => .skidx
  | 6 => .skdataLo
  | 7 => .skdataHi
  | n =>
    if 8 ≤ n ∧ n < 12 then .data (Fin.ofNat 4 (n - 8))
    else if 64 ≤ n ∧ n < 128 then .key (Fin.ofNat 64 (n - 64))
    else .reserved

/-- The registers that a read finds unspecified while BUSY = 1 (70_reset_and_hazards.md R176). -/
def RegName.isBuffer : RegName → Bool
  | .skdataLo => true
  | .skdataHi => true
  | .data _ => true
  | .key _ => true
  | .id => false
  | .cap => false
  | .ctrl => false
  | .status => false
  | .cmd => false
  | .skidx => false
  | .reserved => false

/-! ### BLK -/

/-- DATAk = BLK[32k+31:32k] (10_state.md R36). -/
def State.dataReg (s : State) (k : Fin 4) : Reg32 := s.blk.extractLsb' (32 * k.val) 32

/-- A host write to DATAk sets that slice of BLK (R36). -/
def setData (k : Fin 4) (v : Reg32) (s : State) : State := { s with blk := setSlice s.blk (32 * k.val) v }

/-- A = BLK[W-1:0], the block's first word (20_memory.md R55). -/
def blockA (W : Width) (blk : BitVec 128) : Word W := blk.extractLsb' 0 W.bits

/-- B = BLK[2W-1:W], the block's second word (R55). -/
def blockB (W : Width) (blk : BitVec 128) : Word W := blk.extractLsb' W.bits W.bits

/-- BLK with the two words replaced and bits 127:2W kept (10_state.md R40; 42_decrypt.md R124). -/
def setBlock (W : Width) (blk : BitVec 128) (ab : Word W × Word W) : BitVec 128 :=
  setSlice (setSlice blk 0 ab.1) W.bits ab.2

/-! ### K -/

/-- KEYk: bytes K[4k+3], K[4k+2], K[4k+1], K[4k], the last one in bits 7:0 (10_state.md R37). -/
def State.keyReg (s : State) (k : Fin 64) : Reg32 :=
  s.key[4 * k.val + 3] ++ s.key[4 * k.val + 2] ++ s.key[4 * k.val + 1] ++ s.key[4 * k.val]

/-- A host write to KEYk sets bytes K[4k]..K[4k+3] (R37). -/
def setKey (k : Fin 64) (v : Reg32) (s : State) : State :=
  { s with key := Vector.ofFn fun n : Fin 256 => if n.val / 4 = k.val then byteLane v (n.val % 4) else s.key[n] }

/-- The SecretKey of length b: bytes K[0..b-1] (10_state.md R39, 41_key_schedule.md R107). -/
def keyBytes (key : Vector Byte 256) (b : Nat) : List Byte := key.toList.take b

/-! ### The subkey readback -/

/-- The 64-bit value that SKDATA_LO and SKDATA_HI show while BUSY = 0 (10_state.md R35). -/
def State.skdata (s : State) : BitVec 64 :=
  if s.skv = false ∨ 2 * (s.curR.toNat + 1) ≤ s.skidx.toNat then 0 else s.subAt s.skidx.toNat

/-! ### Register reads -/

/-- The defined value of a register (R22 to R37, 20_memory.md R54): for a buffer register, its value while BUSY = 0. -/
def State.regValue (s : State) : RegName → Reg32
  | .id => 0x52433544#32
  | .cap => 0x00FFFF07#32
  | .ctrl => s.ctrlWord
  | .status => s.statusWord
  | .cmd => 0
  | .skidx => s.skidx.setWidth 32
  | .skdataLo => s.skdata.extractLsb' 0 32
  | .skdataHi => s.skdata.extractLsb' 32 32
  | .data k => s.dataReg k
  | .key k => s.keyReg k
  | .reserved => 0

/-- A register read: a buffer register read while BUSY = 1 gives a fresh free value (70_reset_and_hazards.md R176; log 7); every
other read gives the defined value. No read changes a register (20_memory.md R58). -/
def readReg (r : RegName) (s : State) : Reg32 × State :=
  if s.busy && r.isBuffer then (Config.freeRead s.draws, useDraw s) else (s.regValue r, s)

/-- A write to SKIDX sets IDX to v[8:0], whatever BUSY is (10_state.md R34). -/
def writeSkidx (v : Reg32) (s : State) : State := { s with skidx := v.extractLsb' 0 9 }

/-- A write to a buffer register while BUSY = 1 is discarded and records BUSY (70_reset_and_hazards.md R175). -/
def writeUnlessBusy (f : State → State) (s : State) : State := if s.busy then raiseCmdError .busy s else f s

end Sys2Proof.Machine
end

