-- ==== Sys2Proof/Machine/Control.lean ====
section
/-! DEFINITION. The commands with no cryptographic content, NOP and CLEAR (43_control.md). -/

namespace Sys2Proof.Machine

/-- NOP: accepted with no effect at all; it never sets BUSY and leaves DONE (R138). While BUSY = 1 it is rejected like any
command. -/
def execNop (s : State) : Result :=
  .next (if s.busy then raiseCmdError .busy s else s)

/-- Issue of CLEAR (R139). SKV keeps its value until completion. -/
def execClear (s : State) : Result :=
  .next (if s.busy then raiseCmdError .busy s else accept .clear s)

/-- CLEAR's completion effect: K, S, BLK and the hidden state become 0 and the table is dropped; CTRL, ERRV, ERR and SKIDX
stay (R139). -/
def clearEffect (s : State) : State :=
  killTable
    { s with
      key := Vector.replicate 256 0
      sub := Vector.replicate 512 0
      blk := 0
      dp := .zero }

end Sys2Proof.Machine
end

