-- ==== Sys2Proof/Machine/WordOps.lean ====
section
/-! DEFINITION. The datapath's word operations (40_word_ops.md). They set no flags and signal nothing. -/

namespace Sys2Proof.Machine

variable {W : Width}

/-- add_W(x, y) = (x + y) mod 2^W (R91). -/
def addW (x y : Word W) : Word W := x + y

/-- sub_W(x, y) = (x - y) mod 2^W (R91). -/
def subW (x y : Word W) : Word W := x - y

/-- Bitwise exclusive or (R93). -/
def xorW (x y : Word W) : Word W := x ^^^ y

/-- rotl_W(x, s): the amount is taken modulo W (R92). -/
def rotlW (x : Word W) (s : Nat) : Word W :=
  let s' := s % W.bits
  if s' = 0 then x else (x <<< s') ||| (x >>> (W.bits - s'))

/-- rotr_W(x, s): the amount is taken modulo W (R92). -/
def rotrW (x : Word W) (s : Nat) : Word W :=
  let s' := s % W.bits
  if s' = 0 then x else (x >>> s') ||| (x <<< (W.bits - s'))

end Sys2Proof.Machine
end

