-- ==== Sys2Proof/Machine/Decrypt.lean ====
section
/-! DEFINITION. The decryption round engine (42_decrypt.md) and the command DECRYPT: its issue (43_control.md R136) and its
completion effect. -/

namespace Sys2Proof.Machine

variable {W : Width}

/-- Round i of the inverse transform (R120): B is undone with the A in force, then A with the new B. -/
def decryptRound (S : Nat → Word W) (i : Nat) (ab : Word W × Word W) : Word W × Word W :=
  let b := xorW (rotrW (subW ab.2 (S (2 * i + 1))) ab.1.toNat) ab.1
  let a := xorW (rotrW (subW ab.1 (S (2 * i))) b.toNat) b
  (a, b)

/-- Rounds r, r-1, ..., 1 in that order (R120). -/
def decryptRounds (S : Nat → Word W) : Nat → Word W × Word W → Word W × Word W
  | 0, ab => ab
  | i + 1, ab => decryptRounds S i (decryptRound S (i + 1) ab)

/-- DecryptBlock: the inverse rounds and then the final subtractions of S[1] and S[0] (R120). -/
def decryptBlock (S : Nat → Word W) (r : Nat) (ab : Word W × Word W) : Word W × Word W :=
  let ab' := decryptRounds S r ab
  (subW ab'.1 (S 0), subW ab'.2 (S 1))

/-- The SubkeyTable as DECRYPT reads it: the W-bit word in each entry of S (40_word_ops.md R95). -/
def State.subkeys (s : State) (W : Width) (i : Nat) : Word W := (s.subAt i).setWidth W.bits

/-- Issue of DECRYPT: BUSY first, then NO_KEY (R124, 43_control.md R136, 60_exceptions.md R153). -/
def execDecrypt (s : State) : Result :=
  .next <|
    if s.busy then raiseCmdError .busy s
    else if s.skv then accept .decrypt s
    else raiseCmdError .noKey s

/-- DECRYPT's completion effect: the block in BLK is decrypted in place with the width and round count of the table in force,
and BLK's bits above the block stay (R124). -/
def decryptEffect (s : State) : State :=
  scrambleDatapath
    { s with
      blk := setBlock s.curW s.blk
        (decryptBlock (s.subkeys s.curW) s.curR.toNat (blockA s.curW s.blk, blockB s.curW s.blk)) }

end Sys2Proof.Machine
end

