-- ==== Sys2Proof/Machine/KeySchedule.lean ====
section
/-! DEFINITION. The key scheduler (41_key_schedule.md) and the two commands that load and run it, KEYCLR and EXPAND: their issue
(43_control.md R136) and their completion effects. -/

namespace Sys2Proof.Machine

/-! ### Magic constants -/

/-- P_W (R100). -/
def magicP : (W : Width) → Word W
  | .w16 => 0xB7E1#16
  | .w32 => 0xB7E15163#32
  | .w64 => 0xB7E151628AED2A6B#64

/-- Q_W (R100). -/
def magicQ : (W : Width) → Word W
  | .w16 => 0x9E37#16
  | .w32 => 0x9E3779B9#32
  | .w64 => 0x9E3779B97F4A7C15#64

/-! ### The key expansion function -/

/-- n words, the first one x and each next one Q_W more. -/
def initFrom (W : Width) : Nat → Word W → List (Word W)
  | 0, _ => []
  | n + 1, x => x :: initFrom W n (addW x (magicQ W))

/-- t = 2(r+1), the size of the SubkeyTable (00_scope.md R7). -/
def tableSize (r : Nat) : Nat := 2 * (r + 1)

/-- InitS: S[0] = P_W and S[i] = S[i-1] + Q_W, t words (R102). -/
def initS (W : Width) (r : Nat) : List (Word W) := initFrom W (tableSize r) (magicP W)

/-- c = max(1, ceil(b/u)), the number of key words (R7, R103). -/
def keyWordCount (W : Width) (b : Nat) : Nat := max 1 ((b + (W.bytes - 1)) / W.bytes)

/-- One turn of PackL's loop: key byte k goes into bits 8(k mod u)+7..8(k mod u) of L[k div u] (R103). -/
def packByte (W : Width) (l : List (Word W)) (byte : Byte × Nat) : List (Word W) :=
  l.modify (byte.2 / W.bytes) (· ||| (byte.1.setWidth W.bits <<< (8 * (byte.2 % W.bytes))))

/-- PackL: the key bytes as c little-endian words, the last one padded with zero bytes (R103). -/
def packL (W : Width) (key : List Byte) : List (Word W) :=
  key.zipIdx.foldl (packByte W) (List.replicate (keyWordCount W key.length) 0)

/-- The variables of Mix (R104). -/
structure MixVars (W : Width) where
  s : List (Word W)
  l : List (Word W)
  a : Word W
  b : Word W
  i : Nat
  j : Nat
deriving DecidableEq, Repr

/-- One iteration of Mix (R104). The second line uses the A that the first line has just computed. -/
def mixStep {W : Width} (m : MixVars W) : MixVars W :=
  let a := rotlW (addW (addW (m.s.getD m.i 0) m.a) m.b) 3
  let b := rotlW (addW (addW (m.l.getD m.j 0) a) m.b) ((addW a m.b).toNat % W.bits)
  { s := m.s.set m.i a, l := m.l.set m.j b, a := a, b := b
    i := (m.i + 1) % m.s.length, j := (m.j + 1) % m.l.length }

/-- n iterations of Mix. -/
def mixIter {W : Width} : Nat → MixVars W → MixVars W
  | 0, m => m
  | n + 1, m => mixIter n (mixStep m)

/-- Mix: 3 max(t, c) iterations from A = B = 0 and i = j = 0 (R104). -/
def mix {W : Width} (s l : List (Word W)) : MixVars W :=
  mixIter (3 * max s.length l.length) { s := s, l := l, a := 0, b := 0, i := 0, j := 0 }

/-- ExpandKey: InitS, PackL, Mix; the result is S after mixing, and L is discarded (R105). -/
def expandKey (W : Width) (r : Nat) (key : List Byte) : List (Word W) := (mix (initS W r) (packL W key)).s

/-- S with the table in its first entries, each word zero-extended, and 0 in every entry past it (R111, 10_state.md R38). -/
def storeTable {W : Width} (table : List (Word W)) : Vector (BitVec 64) 512 :=
  Vector.ofFn fun n : Fin 512 => (table.getD n.val 0).setWidth 64

/-! ### KEYCLR (R110) -/

/-- Issue of KEYCLR. -/
def execKeyclr (s : State) : Result :=
  .next (if s.busy then raiseCmdError .busy s else accept .keyclr s)

/-- KEYCLR's completion effect: all 256 bytes of K become 0 and nothing else changes. -/
def keyclrEffect (s : State) : State := { s with key := Vector.replicate 256 0 }

/-! ### EXPAND (R111) -/

/-- Issue of EXPAND: BUSY first, then BAD_W, then BAD_R (43_control.md R136, 60_exceptions.md R153); an accepted EXPAND drops the
table in force. Reserved bits are checked where the word is decoded, before this. -/
def execExpand (wsel : BitVec 2) (r b : BitVec 8) (s : State) : Result :=
  .next <|
    if s.busy then raiseCmdError .busy s
    else
      match decodeW wsel with
      | none => rejectExpand .badW s
      | some W => if r = 0 then rejectExpand .badR s else killTable (accept (.expand W r b) s)

/-- EXPAND's completion effect: S holds ExpandKey(K[0..b-1], r, W), and the table is valid for W and r. -/
def expandEffect (W : Width) (r b : BitVec 8) (s : State) : State :=
  scrambleDatapath
    { s with
      sub := storeTable (expandKey W r.toNat (keyBytes s.key b.toNat))
      skv := true, curW := W, curR := r }

end Sys2Proof.Machine
end

