-- ==== Sys2Proof/Machine/Dispatch.lean ====
section
/-! DEFINITION. The issue of a command (43_control.md R136): one arm for each constructor of Instr. -/

namespace Sys2Proof.Machine

def exec (i : Instr) (s : State) : Host.Outcome State Fault Refusal :=
  match i with
  | .nop => Sys2Proof.Machine.execNop s
  | .keyclr => Sys2Proof.Machine.execKeyclr s
  | .expand wsel r b => Sys2Proof.Machine.execExpand wsel r b s
  | .decrypt => Sys2Proof.Machine.execDecrypt s
  | .clear => Sys2Proof.Machine.execClear s

end Sys2Proof.Machine
end

