-- ==== Sys2Proof/Machine/Port.lean ====
section
/-! DEFINITION. What one step does: a command presentation, a bus access, the engine's turn, reset (20_memory.md, 43_control.md,
70_reset_and_hazards.md). Machine/Step.lean calls these. -/

namespace Sys2Proof.Machine

/-! ### Command presentation -/

/-- A word that is no command is rejected: with BUSY while a command is pending, else with its own code (43_control.md R136). -/
def rejectWord (reject : State → State) (s : State) : State := if s.busy then raiseCmdError .busy s else reject s

/-- A write to CMD presents the word v to the issue logic (43_control.md R135, R136). A command is issued by its own meaning. -/
def presentCommand (v : Reg32) (s : State) : Result :=
  match decodeWord v with
  | .command i => exec i s
  | .illegalOp => .next (rejectWord (raiseCmdError .illegalOp) s)
  | .reservedBits => .next (rejectWord (raiseCmdError .rsvdNz) s)
  | .reservedBitsExpand => .next (rejectWord (rejectExpand .rsvdNz) s)

/-! ### The bus port -/

/-- A register write (10_state.md R22 to R37). Read-only and reserved places ignore it (20_memory.md R54). -/
def writeReg (r : RegName) (v : Reg32) (s : State) : Result :=
  match r with
  | .id => .next s
  | .cap => .next s
  | .ctrl => .next (writeCtrl v s)
  | .status => .next (writeStatus v s)
  | .cmd => presentCommand v s
  | .skidx => .next (writeSkidx v s)
  | .skdataLo => .next s
  | .skdataHi => .next s
  | .data k => .next (writeUnlessBusy (setData k v) s)
  | .key k => .next (writeUnlessBusy (setKey k v) s)
  | .reserved => .next s

/-- An access the port serves: 32 bits wide, at an offset whose two low bits are 0 (20_memory.md R52). -/
def accessLegal (off : BitVec 12) (bytes : Nat) : Bool := bytes == 4 && off.extractLsb' 0 2 == 0#2

/-- One transaction of the port (20_memory.md R50). An access that is misaligned or not 32 bits wide gets the bus error response
and changes no state (R52). -/
def portAccess (off : BitVec 12) (bytes : Nat) (kind : AccessKind) (s : State) : Result :=
  if accessLegal off bytes then
    match kind with
    | .read =>
      let vs := readReg (regAt off) s
      .next (respond (.data vs.1) vs.2)
    | .write v => writeReg (regAt off) v (respond .written s)
  else .fault (.busError off)

/-- The window offset that a host address reaches, if it reaches the block at all (20_memory.md R51). RC5_BASE is a multiple of
0x1000, so RC5_BASE ≤ addr < RC5_BASE + 0x1000 says that addr lies in RC5_BASE's page, and the offset is its place there. -/
def windowOffset (addr : Nat) : Option (BitVec 12) :=
  if addr / 0x1000 = Config.rc5Page then some (BitVec.ofNat 12 (addr % 0x1000)) else none

/-- A bus access at a host address. One outside the window does not reach the block (R51; log 5). -/
def busAccess (addr bytes : Nat) (kind : AccessKind) (s : State) : Result :=
  match windowOffset addr with
  | some off => portAccess off bytes kind s
  | none => .next s

/-! ### The engine -/

/-- The completion effect of the pending operation (43_control.md R137). -/
def completionEffect (p : Pending) (s : State) : State :=
  match p with
  | .keyclr => keyclrEffect s
  | .expand W r b => expandEffect W r b s
  | .decrypt => decryptEffect s
  | .clear => clearEffect s

/-- The engine's step: enabled exactly when BUSY = 1; the effect, then BUSY 0 and DONE 1, all at once (R137). -/
def engineStep (s : State) : State :=
  match s.pend with
  | some p => finish (completionEffect p s)
  | none => s

/-! ### Reset -/

/-- Reset: every piece of the block's state takes its reset value; a pending command is abandoned (70_reset_and_hazards.md R170,
R171). What the outside presents next and the count of free values are not the block's (log 12). -/
def resetStep (s : State) : State := { State.reset with inputs := s.inputs, draws := s.draws }

/-! ### The next input -/

/-- What an input does, once it is taken off the list. -/
def serve (e : Input) (s : State) : Result :=
  match e with
  | .port off bytes kind => portAccess off bytes kind s
  | .bus addr bytes kind => busAccess addr bytes kind s
  | .engine => .next (engineStep s)
  | .reset => .next (resetStep s)

/-- The CMD register's offset in the window (10_state.md R33). -/
def cmdOffset : BitVec 12 := 0x010#12

/-- The bus write that presents the command word v (43_control.md R135). -/
def cmdWrite (v : Reg32) : Input := .port cmdOffset 4 (.write v)

end Sys2Proof.Machine
end

