-- ==== Sys2Proof/Machine/Step.lean ====
section
/-! DEFINITION. One step of the machine: the next of the host's accesses, the engine's turns and the resets, in the order State
holds them (00_scope.md R6; log 1, log 2). -/

namespace Sys2Proof.Machine

/-- One step. With nothing waiting outside, the engine takes its turn if it has one, which is the weak fairness of R6, and the
block is idle otherwise. -/
def step (s : State) : Host.Outcome State Fault Refusal :=
  match s.inputs with
  | [] => .next (engineStep s)
  | e :: _ => serve e (takeInput s)

/-- s with the write to CMD that presents this word as the next thing that reaches the block (log 3). -/
def State.withFetchWord (s : State) (nbits w : Nat) : State :=
  { s with inputs := cmdWrite (tableWord nbits w) :: s.inputs }

end Sys2Proof.Machine
end

