-- ==== Sys2Proof/Machine/EncRef.lean ====
section
/-! DEFINITION. EncRef, the forward transform (42_decrypt.md R122). A reference function for the round-trip law: no step of the
machine calls it, because encryption is no operation of the block (00_scope.md R5). -/

namespace Sys2Proof.Machine

variable {W : Width}

/-- Round i of the forward transform (R122). -/
def encryptRound (S : Nat → Word W) (i : Nat) (ab : Word W × Word W) : Word W × Word W :=
  let a := addW (rotlW (xorW ab.1 ab.2) ab.2.toNat) (S (2 * i))
  let b := addW (rotlW (xorW ab.2 a) a.toNat) (S (2 * i + 1))
  (a, b)

/-- Rounds 1, 2, ..., r in that order (R122). -/
def encryptRounds (S : Nat → Word W) : Nat → Word W × Word W → Word W × Word W
  | 0, ab => ab
  | i + 1, ab => encryptRound S (i + 1) (encryptRounds S i ab)

/-- EncRef: S[0] and S[1] are added, then the forward rounds are run (R122). -/
def encRef (S : Nat → Word W) (r : Nat) (ab : Word W × Word W) : Word W × Word W :=
  encryptRounds S r (addW ab.1 (S 0), addW ab.2 (S 1))

end Sys2Proof.Machine
end

