-- ==== Sys2Proof/Safety.lean ====
section
/-! DEFINITION. The terms that claims are stated in: the machine's invariant, what the next step does, a host whose accesses are
legal, and the issue checks in the order the spec writes them. -/

namespace Sys2Proof.Machine

/-! ### The invariant -/

/-- S holds the SubkeyTable of some secret key for the width and round count in force, and 0 past it (10_state.md R29, R38). -/
def State.tableHeld (s : State) : Prop :=
  ∃ key : List Byte, key.length ≤ 255 ∧ s.sub = storeTable (expandKey s.curW s.curR.toNat key)

/-- What holds in every state that a run reaches. -/
structure State.Inv (s : State) : Prop where
  /-- With no error recorded, ERR is 0 (10_state.md R30). -/
  err_none : s.errv = false → s.err = .none
  /-- A recorded error has a code (60_exceptions.md R152: code 0 only when ERRV = 0). -/
  err_some : s.errv = true → s.err ≠ .none
  /-- With no valid table, CUR_WSEL and CUR_R are 0 (10_state.md R31). -/
  no_table : s.skv = false → s.curW = .w16 ∧ s.curR = 0
  /-- A valid table has r in 1..255 (R31) and is the key scheduler's (R29). -/
  table : s.skv = true → s.curR ≠ 0 ∧ s.tableHeld
  /-- While an EXPAND is pending there is no valid table, and its round count is legal (43_control.md R136). -/
  pend_expand : ∀ W r b, s.pend = some (.expand W r b) → s.skv = false ∧ r ≠ 0
  /-- A pending DECRYPT has a valid table to use (R136). -/
  pend_decrypt : s.pend = some .decrypt → s.skv = true
  /-- DONE is 0 while a command is pending (10_state.md R28). -/
  busy_not_done : s.busy = true → s.done = false

/-! ### What the next step does -/

/-- The register that a bus access reaches, if it is one the port serves: in the window, aligned and 32 bits wide. -/
def Input.target : Input → Option (RegName × AccessKind)
  | .port off bytes kind => if accessLegal off bytes then some (regAt off, kind) else none
  | .bus addr bytes kind =>
    match windowOffset addr with
    | some off => if accessLegal off bytes then some (regAt off, kind) else none
    | none => none
  | .engine => none
  | .reset => none

/-- The next step serves this access to this register. -/
def State.nextAccess (s : State) : Option (RegName × AccessKind) := s.inputs.head?.bind Input.target

/-- The next step is the engine's turn: it is listed next, or nothing is listed. -/
def State.engineTurn (s : State) : Bool := s.inputs.head? == none || s.inputs.head? == some .engine

/-- The command whose completion the next step is (43_control.md R137). -/
def State.completing (s : State) : Option Pending := if s.engineTurn then s.pend else none

/-- The next step is a reset. -/
def State.resetNext (s : State) : Bool := s.inputs.head? == some .reset

/-- The next step writes v to CMD and the issue checks accept it as the command p (43_control.md R136): the word decodes to a
command other than NOP, no command is pending, EXPAND's fields are legal and DECRYPT has a table. -/
def State.accepts (s : State) (v : Reg32) : Option Pending :=
  if s.nextAccess = some (.cmd, .write v) ∧ s.busy = false then
    match decodeWord v with
    | .command .nop => none
    | .command .keyclr => some .keyclr
    | .command (.expand wsel r b) => if r = 0 then none else (decodeW wsel).map fun W => .expand W r b
    | .command .decrypt => if s.skv then some .decrypt else none
    | .command .clear => some .clear
    | .illegalOp => none
    | .reservedBits => none
    | .reservedBitsExpand => none
  else none

/-- t has the effect that the completion of p, pending in s, has on the block, as the rules of the four commands write it, with
BUSY 0, PEND empty and DONE 1 (41_key_schedule.md R110, R111; 42_decrypt.md R124; 43_control.md R137, R139). -/
def State.completedAs (s : State) (p : Pending) (t : State) : Prop :=
  t.pend = none ∧ t.busy = false ∧ t.done = true ∧
  match p with
  | .keyclr =>
    (∀ n : Fin 256, t.key[n] = 0) ∧ t.sub = s.sub ∧ t.blk = s.blk ∧ t.skv = s.skv ∧ t.curW = s.curW ∧ t.curR = s.curR
  | .expand W r b =>
    (∀ n : Fin 512, t.sub[n] = ((expandKey W r.toNat (keyBytes s.key b.toNat)).getD n.val 0).setWidth 64) ∧
    t.skv = true ∧ t.curW = W ∧ t.curR = r ∧ t.key = s.key ∧ t.blk = s.blk
  | .decrypt =>
    (t.blk.extractLsb' 0 s.curW.bits, t.blk.extractLsb' s.curW.bits s.curW.bits) =
      decryptBlock (s.subkeys s.curW) s.curR.toNat
        (s.blk.extractLsb' 0 s.curW.bits, s.blk.extractLsb' s.curW.bits s.curW.bits) ∧
    (∀ k : Nat, 2 * s.curW.bits ≤ k → t.blk.getLsbD k = s.blk.getLsbD k) ∧
    t.key = s.key ∧ t.sub = s.sub ∧ t.skv = s.skv ∧ t.curW = s.curW ∧ t.curR = s.curR
  | .clear =>
    (∀ n : Fin 256, t.key[n] = 0) ∧ (∀ n : Fin 512, t.sub[n] = 0) ∧ t.blk = 0 ∧ t.dp = .zero ∧
    t.skv = false ∧ t.curW = .w16 ∧ t.curR = 0

/-- The state s with the engine's turn next and then the inputs rest. -/
def State.engineNext (s : State) (rest : List Input) : State := { s with inputs := .engine :: rest }

/-- The state s as the access that comes next finds it: taken off the list, and answered as a write is. -/
def State.afterWrite (s : State) : State := { s with inputs := s.inputs.tail, resp := .written }

/-- R151 as one record: ERRV is 1, and ERR is the code only if no error was recorded before. -/
def State.withError (s : State) (code : ErrCode) : State :=
  { s with errv := true, err := if s.errv = true then s.err else code }

/-! ### A legal host -/

/-- No bus error: the access is outside the window, or aligned and 32 bits wide (20_memory.md R52). -/
def Input.legal : Input → Bool
  | .port off bytes _ => accessLegal off bytes
  | .bus addr bytes _ =>
    match windowOffset addr with
    | some off => accessLegal off bytes
    | none => true
  | .engine => true
  | .reset => true

/-- Every access still to come is legal. -/
def State.hostLegal (s : State) : Prop := ∀ e ∈ s.inputs, e.legal = true

/-! ### The issue checks as the spec writes them -/

/-- R136's pseudocode, check by check on the bits of the word, with no decoder between (43_control.md R136). -/
def issueChecks (v : Reg32) (s : State) : State :=
  let op := (v.extractLsb' 0 4).toNat
  if s.busy then s.withError .busy
  else if 5 ≤ op then s.withError .illegalOp
  else if op = 2 ∧ v.extractLsb' 22 10 ≠ 0 then (killTable s).withError .rsvdNz
  else if op = 2 ∧ v.extractLsb' 4 2 = 3 then (killTable s).withError .badW
  else if op = 2 ∧ v.extractLsb' 6 8 = 0 then (killTable s).withError .badR
  else if op ≠ 2 ∧ v.extractLsb' 4 28 ≠ 0 then s.withError .rsvdNz
  else if op = 3 ∧ s.skv = false then s.withError .noKey
  else if op = 0 then s
  else if op = 1 then { s with pend := some .keyclr, done := false }
  else if op = 3 then { s with pend := some .decrypt, done := false }
  else if op = 4 then { s with pend := some .clear, done := false }
  else
    match decodeW (v.extractLsb' 4 2) with
    | some W =>
      { s with
        pend := some (.expand W (v.extractLsb' 6 8) (v.extractLsb' 14 8)), done := false
        skv := false, curW := .w16, curR := 0 }
    | none => s

end Sys2Proof.Machine
end

