-- ==== Sys2Proof/Certificates/Slice0/Obligations.lean ====
section
/-! DEFINITION. The statements for the provers. Each docstring names the rules of spec/ it formalises. -/

open Sys2Proof Sys2Proof.Machine

/-! ### Encoding -/

/-- Decoding the word of any command gives that command back, with every operand at every value its field admits, the ill-formed
EXPANDs among them (30_encoding.md sections 1 to 3). -/
def Obligations.DecodeOfEncode : Prop :=
  ∀ i : Instr, decodeWord (encode i) = .command i

/-- Each command has one word: a word that decodes to a command is that command's word (30_encoding.md sections 1 to 3). -/
def Obligations.EncodeOfDecode : Prop :=
  ∀ (v : BitVec 32) (i : Instr), decodeWord v = .command i → encode i = v

/-- The opcode map (30_encoding.md section 3): its five rows, that a word is in a row exactly when it decodes to a command of the row,
EXPAND's with any width select and round count, and that the other words are those with OP in 5..15 and those whose reserved
bits are set. -/
def Obligations.OpcodeMapByMatchAndMask : Prop :=
  opcodeTable.map (fun row => (row.mnemonic, row.pattern, row.mask)) =
    [("NOP", 0x00000000#32, 0xFFFFFFFF#32), ("KEYCLR", 0x00000001#32, 0xFFFFFFFF#32), ("EXPAND", 0x00000002#32, 0xFFC0000F#32),
     ("DECRYPT", 0x00000003#32, 0xFFFFFFFF#32), ("CLEAR", 0x00000004#32, 0xFFFFFFFF#32)] ∧
  (∀ (v : BitVec 32) (row : OpcodeRow), row ∈ opcodeTable →
    (v &&& row.mask = row.pattern ↔ ∃ i, decodeWord v = .command i ∧ i.row = row)) ∧
  (∀ (v : BitVec 32) (i : Instr), decodeWord v = .command i → i.row ∈ opcodeTable) ∧
  (∀ v : BitVec 32, decodeWord v = .illegalOp ↔ 5 ≤ (v.extractLsb' 0 4).toNat)

/-- The words that the spec's encodings write out (30_encoding.md R72, R76, R80; 95_test_vectors.md section 5) decode to what they
stand for, and each width select is the width of R74's table. -/
def Obligations.SpecWordsDecode : Prop :=
  decodeWord 0b00000000000000000000000000000000#32 = .command .nop ∧
  decodeWord 0b00000000000000000000000000000001#32 = .command .keyclr ∧
  decodeWord 0b0000000000_00010000_00001100_01_0010#32 = .command (.expand 0b01#2 12#8 16#8) ∧
  decodeWord 0b0000000000_11111111_11111111_10_0010#32 = .command (.expand 0b10#2 255#8 255#8) ∧
  decodeWord 0b00000000000000000000000000000011#32 = .command .decrypt ∧
  decodeWord 0b00000000000000000000000000000100#32 = .command .clear ∧
  decodeWord 0x0000000F#32 = .illegalOp ∧
  decodeWord 0x80000003#32 = .reservedBits ∧
  decodeWord 0x00400312#32 = .reservedBitsExpand ∧
  [0b00#2, 0b01#2, 0b10#2, 0b11#2].map (fun wsel => (decodeW wsel).map fun W => (W.bits, W.bytes)) =
    [some (16, 2), some (32, 4), some (64, 8), none]

/-- A step whose next input is a 32-bit write of v to CMD, where v decodes to the command i, is exec of i, at the state with
that input taken and answered (43_control.md section 1, dispatch; 30_encoding.md section 1). That a step after withFetchWord is exec
of the command that decodeTableWord reads is a clause about the model's own functions: how a program comes to run is the model's
choice (log 3) and the numbering of the word's bits its inference (log 6). -/
def Obligations.StepRunsTheDecodedCommand : Prop :=
  (∀ (s : State) (v : BitVec 32) (i : Instr) (rest : List Input),
    s.inputs = .port 0x010#12 4 (.write v) :: rest → decodeWord v = .command i →
      step s = exec i { s with inputs := rest, resp := .written }) ∧
  (∀ (s : State) (nbits w : Nat) (i : Instr), decodeTableWord nbits w = some i →
      step (s.withFetchWord nbits w) = exec i { s with resp := .written })

/-! ### Issue -/

/-- A write to CMD does what R136's list of checks says, check by check in that order, for every word and every state; the write
itself completes normally in every case (43_control.md R136, 60_exceptions.md R153). -/
def Obligations.CommandWriteFollowsIssueChecks : Prop :=
  ∀ (s : State) (v : BitVec 32) (rest : List Input), s.inputs = .port 0x010#12 4 (.write v) :: rest →
    step s = .next (issueChecks v { s with inputs := rest, resp := .written })

/-- Every word with OP in 5..15, written to CMD with no command pending, is rejected with ILLEGAL_OP and has no other effect; all
eleven OP values act alike; an error already recorded is kept (30_encoding.md R77). -/
def Obligations.IllegalOpcodeRejected : Prop :=
  ∀ (s : State) (v : BitVec 32), 5 ≤ (v.extractLsb' 0 4).toNat → s.busy = false →
    presentCommand v s = .next (s.withError .illegalOp)

/-- With no command pending: a reserved bit set is RSVD_NZ; an EXPAND with clear reserved bits and WSEL = 3 is BAD_W; one with
WSEL other than 3 and R = 0 is BAD_R. A rejected EXPAND drops the table (30_encoding.md R78, 60_exceptions.md R152). -/
def Obligations.ReservedAndIllegalFieldsRejected : Prop :=
  ∀ (s : State) (v : BitVec 32), s.busy = false →
    ((v.extractLsb' 0 4).toNat ∈ [0, 1, 3, 4] → v.extractLsb' 4 28 ≠ 0 →
      presentCommand v s = .next (s.withError .rsvdNz)) ∧
    ((v.extractLsb' 0 4).toNat = 2 → v.extractLsb' 22 10 ≠ 0 →
      presentCommand v s = .next ({ s with skv := false, curW := .w16, curR := 0 }.withError .rsvdNz)) ∧
    ((v.extractLsb' 0 4).toNat = 2 → v.extractLsb' 22 10 = 0 → v.extractLsb' 4 2 = 3 →
      presentCommand v s = .next ({ s with skv := false, curW := .w16, curR := 0 }.withError .badW)) ∧
    ((v.extractLsb' 0 4).toNat = 2 → v.extractLsb' 22 10 = 0 → v.extractLsb' 4 2 ≠ 3 → v.extractLsb' 6 8 = 0 →
      presentCommand v s = .next ({ s with skv := false, curW := .w16, curR := 0 }.withError .badR))

/-- What issuing any command may change: PEND with BUSY, DONE, the recorded error, and for EXPAND only SKV, CUR_WSEL and CUR_R.
Everything else, K, S, BLK, CTRL, SKIDX and the hidden state among it, is as before; and a command either is accepted with no
error recorded, or leaves PEND and DONE (43_control.md section 1). -/
def Obligations.IssueFrame : Prop :=
  ∀ (i : Instr) (s t : State), exec i s = .next t →
    t = { s with pend := t.pend, done := t.done, skv := t.skv, curW := t.curW, curR := t.curR, errv := t.errv, err := t.err } ∧
    ((∀ wsel r b, i ≠ .expand wsel r b) → t.skv = s.skv ∧ t.curW = s.curW ∧ t.curR = s.curR) ∧
    ((t.pend = s.pend ∧ t.done = s.done) ∨ (t.errv = s.errv ∧ t.err = s.err))

/-- Commands are checked and executed the same whether ERRV is 0 or 1: the presentation of any word, and any completion, does to
the rest of the state what it does with another error report (43_control.md R142). -/
def Obligations.RecordedErrorsDoNotBlock : Prop :=
  ∀ (s : State) (e : Bool) (c : ErrCode),
    (∀ (v : BitVec 32) (t : State), presentCommand v s = .next t →
      ∃ t', presentCommand v { s with errv := e, err := c } = .next t' ∧ t' = { t with errv := t'.errv, err := t'.err }) ∧
    engineStep { s with errv := e, err := c } = { engineStep s with errv := e, err := c }

/-! ### The five commands -/

/-- NOP (43_control.md R138): with no command pending it is accepted and changes nothing, DONE and BUSY included; while BUSY = 1 it
is rejected with BUSY; with a reserved bit set, with RSVD_NZ. -/
def Obligations.NopCompletes : Prop :=
  ∀ s : State,
    (s.busy = false → exec .nop s = .next s ∧ presentCommand 0x00000000#32 s = .next s) ∧
    (s.busy = true → exec .nop s = .next (s.withError .busy)) ∧
    (∀ v : BitVec 32, s.busy = false → v.extractLsb' 0 4 = 0 → v.extractLsb' 4 28 ≠ 0 →
      presentCommand v s = .next (s.withError .rsvdNz))

/-- KEYCLR (41_key_schedule.md R110): with no command pending it is accepted, BUSY becomes 1 and DONE 0; its completion zeroes the
256 bytes of K, clears BUSY and sets DONE, and changes no other register (the hidden datapath state is left free here); while BUSY = 1
it is rejected with BUSY; with a reserved bit set, with RSVD_NZ. -/
def Obligations.KeyclrCompletes : Prop :=
  ∀ (s : State) (rest : List Input),
    (s.busy = false →
      exec .keyclr s = .next { s with pend := some .keyclr, done := false } ∧
      presentCommand 0x00000001#32 s = exec .keyclr s ∧
      ∃ u, step (State.engineNext { s with pend := some .keyclr, done := false } rest) = .next u ∧
        u = { s with key := u.key, pend := none, done := true, inputs := rest, dp := u.dp, draws := u.draws } ∧
        (∀ n : Fin 256, u.key[n] = 0) ∧ u.busy = false) ∧
    (s.busy = true → exec .keyclr s = .next (s.withError .busy)) ∧
    (∀ v : BitVec 32, s.busy = false → v.extractLsb' 0 4 = 1 → v.extractLsb' 4 28 ≠ 0 →
      presentCommand v s = .next (s.withError .rsvdNz))

/-- EXPAND (41_key_schedule.md R111): with no command pending, a legal width and r not 0, it is accepted and the table in force is
dropped; its completion puts ExpandKey(K[0..b-1], r, W), zero-extended, in S[0..2r+1] and 0 in every later entry, makes the table
valid for W and r, clears BUSY and sets DONE, and changes no other register (the hidden datapath state takes a free value, log 8);
its word is the one of R72; it is rejected with BUSY, RSVD_NZ, BAD_W and BAD_R, the last three dropping the table. -/
def Obligations.ExpandCompletes : Prop :=
  ∀ (s : State) (wsel : BitVec 2) (r b : BitVec 8) (rest : List Input),
    (∀ W : Width, s.busy = false → decodeW wsel = some W → r ≠ 0 →
      exec (.expand wsel r b) s =
        .next { s with pend := some (.expand W r b), done := false, skv := false, curW := .w16, curR := 0 } ∧
      presentCommand ((b.setWidth 32 <<< 14) ||| (r.setWidth 32 <<< 6) ||| (wsel.setWidth 32 <<< 4) ||| 0x2#32) s =
        exec (.expand wsel r b) s ∧
      ∃ u, step (State.engineNext
          { s with pend := some (.expand W r b), done := false, skv := false, curW := .w16, curR := 0 } rest) = .next u ∧
        u = { s with sub := u.sub, skv := true, curW := W, curR := r, pend := none, done := true, inputs := rest,
                     dp := u.dp, draws := u.draws } ∧
        u.busy = false ∧
        (expandKey W r.toNat (keyBytes s.key b.toNat)).length = 2 * (r.toNat + 1) ∧
        ∀ n : Fin 512, u.sub[n] =
          if n.val < 2 * (r.toNat + 1) then ((expandKey W r.toNat (keyBytes s.key b.toNat)).getD n.val 0).setWidth 64 else 0) ∧
    (s.busy = true → exec (.expand wsel r b) s = .next (s.withError .busy)) ∧
    (s.busy = false → decodeW wsel = none →
      exec (.expand wsel r b) s = .next ({ s with skv := false, curW := .w16, curR := 0 }.withError .badW)) ∧
    (s.busy = false → decodeW wsel ≠ none → r = 0 →
      exec (.expand wsel r b) s = .next ({ s with skv := false, curW := .w16, curR := 0 }.withError .badR)) ∧
    (∀ v : BitVec 32, s.busy = false → v.extractLsb' 0 4 = 2 → v.extractLsb' 22 10 ≠ 0 →
      presentCommand v s = .next ({ s with skv := false, curW := .w16, curR := 0 }.withError .rsvdNz))

/-- DECRYPT (42_decrypt.md R124): with no command pending and a valid table it is accepted; its completion replaces the block in
BLK[2W-1:0] by DecryptBlock of it with the subkeys, width and round count of the table in force, keeps BLK's bits 127:2W, clears
BUSY and sets DONE, and changes no other register (the hidden datapath state takes a free value, log 8); it is rejected with BUSY,
RSVD_NZ and NO_KEY, and then leaves BLK. -/
def Obligations.DecryptCompletes : Prop :=
  ∀ (s : State) (rest : List Input),
    (s.busy = false → s.skv = true →
      exec .decrypt s = .next { s with pend := some .decrypt, done := false } ∧
      presentCommand 0x00000003#32 s = exec .decrypt s ∧
      ∃ u, step (State.engineNext { s with pend := some .decrypt, done := false } rest) = .next u ∧
        u = { s with blk := u.blk, pend := none, done := true, inputs := rest, dp := u.dp, draws := u.draws } ∧
        u.busy = false ∧
        (u.blk.extractLsb' 0 s.curW.bits, u.blk.extractLsb' s.curW.bits s.curW.bits) =
          decryptBlock (s.subkeys s.curW) s.curR.toNat
            (s.blk.extractLsb' 0 s.curW.bits, s.blk.extractLsb' s.curW.bits s.curW.bits) ∧
        ∀ k : Nat, 2 * s.curW.bits ≤ k → u.blk.getLsbD k = s.blk.getLsbD k) ∧
    (s.busy = true → exec .decrypt s = .next (s.withError .busy)) ∧
    (s.busy = false → s.skv = false → exec .decrypt s = .next (s.withError .noKey)) ∧
    (∀ v : BitVec 32, s.busy = false → v.extractLsb' 0 4 = 3 → v.extractLsb' 4 28 ≠ 0 →
      presentCommand v s = .next (s.withError .rsvdNz))

/-- CLEAR (43_control.md R139): with no command pending it is accepted and SKV stays until completion; its completion zeroes K, S, BLK
and the hidden state, drops the table, clears BUSY and sets DONE, and changes nothing else, CTRL, ERRV, ERR and SKIDX included; it
is rejected with BUSY and RSVD_NZ. -/
def Obligations.ClearCompletes : Prop :=
  ∀ (s : State) (rest : List Input),
    (s.busy = false →
      exec .clear s = .next { s with pend := some .clear, done := false } ∧
      presentCommand 0x00000004#32 s = exec .clear s ∧
      ∃ u, step (State.engineNext { s with pend := some .clear, done := false } rest) = .next u ∧
        u = { s with key := u.key, sub := u.sub, blk := 0, dp := u.dp, skv := false, curW := .w16, curR := 0,
                     pend := none, done := true, inputs := rest } ∧
        u.busy = false ∧ (∀ n : Fin 256, u.key[n] = 0) ∧ (∀ n : Fin 512, u.sub[n] = 0) ∧
        (∀ n : Fin 128, u.dp.l[n] = 0) ∧ u.dp.a = 0 ∧ u.dp.b = 0 ∧ u.dp.i = 0 ∧ u.dp.j = 0 ∧
        u.dp.mixCount = 0 ∧ u.dp.roundCount = 0) ∧
    (s.busy = true → exec .clear s = .next (s.withError .busy)) ∧
    (∀ v : BitVec 32, s.busy = false → v.extractLsb' 0 4 = 4 → v.extractLsb' 4 28 ≠ 0 →
      presentCommand v s = .next (s.withError .rsvdNz))

/-! ### The engine and the life of a command -/

/-- The engine's turn: with BUSY = 1 the pending command is completed with its effect (State.completedAs, one clause for each command),
and CTRL, the error report, SKIDX and the last response stay (43_control.md section 2). What is the model's own: that the empty list
gives the engine the turn, its form of weak fairness (log 2); that a turn listed while BUSY = 0 changes nothing (log 15); that KEYCLR
leaves the hidden datapath state (log 8). -/
def Obligations.EngineTurnCompletesExactlyWhenBusy : Prop :=
  ∀ s : State, s.engineTurn = true →
    (s.busy = false → step s = .next { s with inputs := s.inputs.tail }) ∧
    (∀ p : Pending, s.pend = some p → ∃ t, step s = .next t ∧ s.completedAs p t ∧ t.errv = s.errv ∧ t.err = s.err ∧
      t.ieDone = s.ieDone ∧ t.ieErr = s.ieErr ∧ t.skidx = s.skidx ∧ t.inputs = s.inputs.tail ∧ t.resp = s.resp ∧
      (p = .keyclr → t.dp = s.dp))

/-- BUSY, and with it PEND, changes only as R27 says: an accepted command other than NOP sets it, its completion and reset clear
it, no other write changes it (10_state.md R27). A word presented while BUSY = 1 is not accepted, so at most one command is in
flight. -/
def Obligations.BusyChangesOnlyAsRuled : Prop :=
  ∀ s t : State, step s = .next t →
    t.pend =
      if s.resetNext = true ∨ s.engineTurn = true then none
      else
        match s.nextAccess with
        | some (.cmd, .write v) => if (s.accepts v).isSome then s.accepts v else s.pend
        | _ => s.pend

/-- DONE changes only as R28 says: every completion sets it; acceptance of a command other than NOP, and a write to STATUS with bit
1 set, clear it; a rejected command, NOP and an error leave it; reset clears it too (10_state.md R28). -/
def Obligations.DoneChangesOnlyAsRuled : Prop :=
  ∀ s t : State, step s = .next t →
    t.done =
      if s.resetNext then false
      else if s.completing.isSome then true
      else
        match s.nextAccess with
        | some (.cmd, .write v) => if (s.accepts v).isSome then false else s.done
        | some (.status, .write v) => if v.getLsbD 1 then false else s.done
        | _ => s.done

/-- SKV, CUR_WSEL and CUR_R change only by completion of EXPAND (to 1, W and r), and to 0, all three at once, by completion of CLEAR,
by reset, and by an EXPAND presented while BUSY = 0, accepted or rejected (10_state.md section 2, SKV and CUR fields). -/
def Obligations.TableReportChangesOnlyAsRuled : Prop :=
  ∀ s t : State, step s = .next t →
    (t.skv, t.curW, t.curR) =
      if s.resetNext then (false, .w16, 0)
      else
        match s.completing with
        | some (.expand W r _) => (true, W, r)
        | some .clear => (false, .w16, 0)
        | _ =>
          match s.nextAccess with
          | some (.cmd, .write v) =>
            if s.busy = false ∧ v.extractLsb' 0 4 = 2 then (false, .w16, 0) else (s.skv, s.curW, s.curR)
          | _ => (s.skv, s.curW, s.curR)

/-- The storage arrays change only by their writers: S by completion of EXPAND and CLEAR and by reset; K by a host write to KEYk
while BUSY = 0, KEYCLR, CLEAR and reset; BLK by a host write to DATAk while BUSY = 0, DECRYPT, CLEAR and reset (10_state.md
section 3). -/
def Obligations.StorageChangesOnlyByItsWriters : Prop :=
  ∀ s t : State, step s = .next t →
    (t.sub ≠ s.sub → s.resetNext = true ∨ s.completing = some .clear ∨ ∃ W r b, s.completing = some (.expand W r b)) ∧
    (t.key ≠ s.key → s.resetNext = true ∨ s.completing = some .clear ∨ s.completing = some .keyclr ∨
      (s.busy = false ∧ ∃ k v, s.nextAccess = some (.key k, .write v))) ∧
    (t.blk ≠ s.blk → s.resetNext = true ∨ s.completing = some .clear ∨ s.completing = some .decrypt ∨
      (s.busy = false ∧ ∃ k v, s.nextAccess = some (.data k, .write v)))

/-- A command in flight is fixed: while BUSY = 1 no step but its completion and reset changes the pending command, K, S, BLK, SKV,
CUR_WSEL, CUR_R or DONE from 0 (20_memory.md section 4; 70_reset_and_hazards.md section 2). -/
def Obligations.InFlightCommandIsFixed : Prop :=
  ∀ s t : State, step s = .next t → s.busy = true → s.engineTurn = false → s.resetNext = false →
    t.pend = s.pend ∧ t.key = s.key ∧ t.sub = s.sub ∧ t.blk = s.blk ∧ t.dp = s.dp ∧
    t.skv = s.skv ∧ t.curW = s.curW ∧ t.curR = s.curR ∧ (s.done = false → t.done = false)

/-- Every pending command completes: from a state with the command p pending, whose host presents only legal accesses, some number of
steps, at most one more than the inputs still to come, reaches BUSY = 0; with no reset among those inputs, p is then completed, with
DONE = 1 and with its effect on the K, S, BLK and table of the first state (State.completedAs, one clause for each command); and in
every state before it p is pending with the same K, S and BLK. A reset among the inputs can end it without its effect (43_control.md
section 2, 70_reset_and_hazards.md section 1). The form of fairness is the model's choice (log 2). -/
def Obligations.PendingCommandCompletes : Prop :=
  ∀ (s : State) (p : Pending), s.hostLegal → s.pend = some p →
    ∃ k, k ≤ s.inputs.length + 1 ∧
      (∃ t, Sys2Proof.core.run k s = .next t ∧ State.busy t = false ∧ (.reset ∉ s.inputs → s.completedAs p t)) ∧
      ∀ j, j < k → ∃ t : State, Sys2Proof.core.run j s = .next t ∧
        t.pend = s.pend ∧ t.key = s.key ∧ t.sub = s.sub ∧ t.blk = s.blk

/-- A DECRYPT presented while an EXPAND is pending: served before the completion it is rejected with BUSY and the table becomes
valid all the same; served after, it is accepted. Both outcomes are admitted (60_exceptions.md section 2, simultaneous events;
95_test_vectors.md program P4). -/
def Obligations.IssueRaceHasBothOutcomes : Prop :=
  ∀ (s : State) (W : Width) (r b : BitVec 8) (rest : List Input), s.pend = some (.expand W r b) → s.errv = false →
    (∃ t : State, Sys2Proof.core.run 2 { s with inputs := .port 0x010#12 4 (.write 3#32) :: .engine :: rest } = .next t ∧
      t.errv = true ∧ t.err = .busy ∧ t.pend = none ∧ t.done = true ∧ t.skv = true ∧ t.blk = s.blk) ∧
    (∃ t : State, Sys2Proof.core.run 2 { s with inputs := .engine :: .port 0x010#12 4 (.write 3#32) :: rest } = .next t ∧
      t.errv = false ∧ t.pend = some .decrypt ∧ t.done = false ∧ t.skv = true ∧ t.blk = s.blk)

/-! ### Errors and the interrupt -/

/-- The first error since the last clear is kept: with ERRV = 1, no step but a reset and a write to STATUS with bit 3 set changes
ERRV or ERR (60_exceptions.md section 1). -/
def Obligations.FirstErrorIsKept : Prop :=
  ∀ s t : State, step s = .next t → s.errv = true → s.resetNext = false →
    (∀ v : BitVec 32, s.nextAccess = some (.status, .write v) → v.getLsbD 3 = false) →
    t.errv = true ∧ t.err = s.err

/-- Error entry: where a step records an error, it serves a write, the code is one of 1 to 6, and nothing else changes but, for
an EXPAND rejected while BUSY = 0, the table's report; IRQ follows the new state (60_exceptions.md section 1). -/
def Obligations.ErrorEntryChangesNothingElse : Prop :=
  ∀ s t : State, step s = .next t → s.errv = false → t.errv = true →
    t = { s with errv := true, err := t.err, skv := t.skv, curW := t.curW, curR := t.curR, inputs := s.inputs.tail,
                 resp := .written } ∧
    (∃ (r : RegName) (v : BitVec 32), s.nextAccess = some (r, .write v)) ∧ t.err ≠ .none ∧
    ((t.skv = s.skv ∧ t.curW = s.curW ∧ t.curR = s.curR) ∨
      (s.busy = false ∧ t.skv = false ∧ t.curW = .w16 ∧ t.curR = 0 ∧
        ∃ v : BitVec 32, s.nextAccess = some (.cmd, .write v) ∧ v.extractLsb' 0 4 = 2)) ∧
    t.irq = ((s.done && s.ieDone) || s.ieErr)

/-- A write to STATUS, whatever BUSY is: bit 1 clears DONE, bit 3 clears ERRV and ERR, every other bit is ignored, and no error is
raised (10_state.md R32). -/
def Obligations.StatusWriteClears : Prop :=
  ∀ (s : State) (v : BitVec 32) (rest : List Input), s.inputs = .port 0x00C#12 4 (.write v) :: rest →
    step s = .next { s with
      done := s.done && !v.getLsbD 1
      errv := s.errv && !v.getLsbD 3
      err := if v.getLsbD 3 = true then .none else s.err
      inputs := rest
      resp := .written }

/-- The interrupt sources: a completion raises IRQ where IE_DONE is 1; enabling a source whose bit is already 1 raises IRQ at once;
clearing both bits lowers it; an enable set to 0 masks the output and not the bit (60_exceptions.md section 2). -/
def Obligations.InterruptSources : Prop :=
  ∀ s t : State, step s = .next t →
    (s.completing.isSome = true → t.irq = (s.ieDone || (s.errv && s.ieErr))) ∧
    (∀ v : BitVec 32, s.nextAccess = some (.ctrl, .write v) →
      t.irq = ((s.done && v.getLsbD 0) || (s.errv && v.getLsbD 1)) ∧ t.done = s.done ∧ t.errv = s.errv) ∧
    (∀ v : BitVec 32, s.nextAccess = some (.status, .write v) → v.getLsbD 1 = true → v.getLsbD 3 = true → t.irq = false) ∧
    (s.resetNext = true → t.irq = false)

/-! ### The bus port and the registers -/

/-- An access of the window that is misaligned or not 32 bits wide is a bus error fault, whatever the state; nothing else faults,
and a host with legal accesses only gets a next state (20_memory.md section 1, access width and alignment). That the state in which
the host's program goes on differs only in that the access is gone is the model's reading (log 4). -/
def Obligations.BusErrorExactlyWhenIllegal : Prop :=
  (∀ (s : State) (off : BitVec 12) (bytes : Nat) (kind : AccessKind) (rest : List Input),
    s.inputs = .port off bytes kind :: rest → (bytes ≠ 4 ∨ off.toNat % 4 ≠ 0) →
      step s = .fault (.busError off) ∧ takeInput s = { s with inputs := rest }) ∧
  (∀ (s : State) (off : BitVec 12) (kind : AccessKind) (rest : List Input),
    s.inputs = .port off 4 kind :: rest → off.toNat % 4 = 0 → ∃ t, step s = .next t) ∧
  (∀ (s : State) (f : Fault), step s = .fault f → ∃ e, s.inputs.head? = some e ∧ e.legal = false) ∧
  (∀ (s : State) (x : Refusal), step s ≠ .refused x) ∧
  (∀ s : State, s.hostLegal → ∃ t, step s = .next t)

/-- Address decode: a host address reaches the block exactly when RC5_BASE ≤ a < RC5_BASE + 0x1000, at offset a - RC5_BASE; RC5_BASE is
a multiple of 0x1000; an access at an address in the window is the access at its offset (20_memory.md section 1, address decode).
That an access outside the window takes one step and changes nothing is the model's choice (log 5). -/
def Obligations.WindowDecode : Prop :=
  0x1000 ∣ Config.rc5Base ∧
  (∀ (addr : Nat) (off : BitVec 12), windowOffset addr = some off ↔
    Config.rc5Base ≤ addr ∧ addr < Config.rc5Base + 0x1000 ∧ off.toNat = addr - Config.rc5Base) ∧
  (∀ (s : State) (addr bytes : Nat) (kind : AccessKind) (rest : List Input), s.inputs = .bus addr bytes kind :: rest →
    (∀ off, windowOffset addr = some off → step s = step { s with inputs := .port off bytes kind :: rest }) ∧
    (windowOffset addr = none → step s = .next { s with inputs := rest }))

/-- The register map: which register stands at each aligned offset of the window (10_state.md section 2, its register map). -/
def Obligations.RegisterMapOffsets : Prop :=
  regAt 0x000#12 = .id ∧ regAt 0x004#12 = .cap ∧ regAt 0x008#12 = .ctrl ∧ regAt 0x00C#12 = .status ∧ regAt 0x010#12 = .cmd ∧
  regAt 0x014#12 = .skidx ∧ regAt 0x018#12 = .skdataLo ∧ regAt 0x01C#12 = .skdataHi ∧
  (∀ k : Fin 4, regAt (BitVec.ofNat 12 (0x020 + 4 * k.val)) = .data k) ∧
  (∀ k : Fin 64, regAt (BitVec.ofNat 12 (0x100 + 4 * k.val)) = .key k) ∧
  (∀ off : BitVec 12, (0x030 ≤ off.toNat ∧ off.toNat ≤ 0x0FF) ∨ 0x200 ≤ off.toNat → regAt off = .reserved)

/-- ID and CAP always read their constants, whatever BUSY is, and writes to them are ignored (10_state.md R23, R24). -/
def Obligations.IdAndCapAreConstant : Prop :=
  ∀ (s : State) (off : BitVec 12) (c : BitVec 32) (rest : List Input),
    (off, c) ∈ [(0x000#12, 0x52433544#32), (0x004#12, 0x00FFFF07#32)] →
    (s.inputs = .port off 4 .read :: rest → step s = .next { s with inputs := rest, resp := .data c }) ∧
    (∀ v : BitVec 32, s.inputs = .port off 4 (.write v) :: rest → step s = .next { s with inputs := rest, resp := .written })

/-- CMD reads 0 with no effect, and so does every aligned offset the map does not name, whatever BUSY is; a write to such an offset or
to a read-only register is ignored and raises no error (20_memory.md section 1; 10_state.md section 2). -/
def Obligations.ReservedPlacesReadZeroIgnoreWrites : Prop :=
  ∀ (s : State) (off : BitVec 12) (rest : List Input), off.toNat % 4 = 0 →
    (off = 0x010#12 ∨ (0x030 ≤ off.toNat ∧ off.toNat ≤ 0x0FC) ∨ 0x200 ≤ off.toNat →
      s.inputs = .port off 4 .read :: rest → step s = .next { s with inputs := rest, resp := .data 0 }) ∧
    (∀ v : BitVec 32, off ∈ [0x000#12, 0x004#12, 0x018#12, 0x01C#12] ∨ (0x030 ≤ off.toNat ∧ off.toNat ≤ 0x0FC) ∨
        0x200 ≤ off.toNat →
      s.inputs = .port off 4 (.write v) :: rest → step s = .next { s with inputs := rest, resp := .written })

/-- No read changes a register: a read leaves every piece of the block's state (20_memory.md section 3). -/
def Obligations.ReadsHaveNoSideEffect : Prop :=
  ∀ (s : State) (r : RegName), s.nextAccess = some (r, .read) →
    ∃ (v : BitVec 32) (t : State), step s = .next t ∧
      t = { s with inputs := s.inputs.tail, resp := .data v, draws := t.draws }

/-- A read of STATUS, whatever BUSY is, gives its fields at their places and 0 in the reserved ones (10_state.md section 2, STATUS). -/
def Obligations.StatusReadFields : Prop :=
  ∀ (s : State) (rest : List Input), s.inputs = .port 0x00C#12 4 .read :: rest →
    ∃ v : BitVec 32, step s = .next { s with inputs := rest, resp := .data v } ∧
      v.getLsbD 0 = s.busy ∧ v.getLsbD 1 = s.done ∧ v.getLsbD 2 = s.skv ∧ v.getLsbD 3 = s.errv ∧
      v.extractLsb' 4 4 = 0 ∧ v.extractLsb' 12 4 = 0 ∧ v.extractLsb' 18 6 = 0 ∧
      (v.extractLsb' 8 4).toNat =
        (match s.err with
          | .none => 0 | .illegalOp => 1 | .rsvdNz => 2 | .badW => 3 | .badR => 4 | .noKey => 5 | .busy => 6) ∧
      decodeW (v.extractLsb' 16 2) = some s.curW ∧ v.extractLsb' 24 8 = s.curR

/-- CTRL: a write takes effect on both enables at once, whatever BUSY is, and a read then gives the two bits and 0 elsewhere; nothing
else changes (10_state.md section 2, CTRL). -/
def Obligations.CtrlWriteThenRead : Prop :=
  ∀ (s : State) (v : BitVec 32) (rest : List Input),
    s.inputs = .port 0x008#12 4 (.write v) :: .port 0x008#12 4 .read :: rest →
      Sys2Proof.core.run 2 s = .next { s with
        ieDone := v.getLsbD 0, ieErr := v.getLsbD 1, inputs := rest, resp := .data (v &&& 3#32) : State }

/-- SKIDX: a write sets IDX to v[8:0], whatever BUSY is, and a read then gives it and 0 elsewhere; no other action but reset changes
IDX, and reset makes it 0 (10_state.md R34). -/
def Obligations.SkidxWriteThenRead : Prop :=
  (∀ (s : State) (v : BitVec 32) (rest : List Input),
    s.inputs = .port 0x014#12 4 (.write v) :: .port 0x014#12 4 .read :: rest →
      Sys2Proof.core.run 2 s = .next { s with
        skidx := v.extractLsb' 0 9, inputs := rest, resp := .data (v &&& 0x1FF#32) : State }) ∧
  (∀ s t : State, step s = .next t → t.skidx ≠ s.skidx →
    s.resetNext = true ∨ ∃ v : BitVec 32, s.nextAccess = some (.skidx, .write v)) ∧
  (∀ s t : State, step s = .next t → s.resetNext = true → t.skidx = 0)

/-- The subkey readback while BUSY = 0: 0 with no valid table or with IDX at or past its end, else S[IDX], the low half through
SKDATA_LO and the high half through SKDATA_HI; writes are ignored (10_state.md section 2, SKDATA). While BUSY = 1 a read gives a free value: which one, and
that each half takes one of its own, is the model's choice (log 7). -/
def Obligations.SubkeyReadback : Prop :=
  ∀ (s : State) (rest : List Input) (off : BitVec 12) (lo : Nat), (off, lo) ∈ [(0x018#12, 0), (0x01C#12, 32)] →
    (s.inputs = .port off 4 .read :: rest →
      (s.busy = false → s.skv = true → s.skidx.toNat < 2 * (s.curR.toNat + 1) →
        step s = .next { s with inputs := rest, resp := .data (s.sub[s.skidx.toNat].extractLsb' lo 32) }) ∧
      (s.busy = false → (s.skv = false ∨ 2 * (s.curR.toNat + 1) ≤ s.skidx.toNat) →
        step s = .next { s with inputs := rest, resp := .data 0 }) ∧
      (s.busy = true →
        step s = .next { s with inputs := rest, resp := .data (Config.freeRead s.draws), draws := s.draws + 1 })) ∧
    (∀ v : BitVec 32, s.inputs = .port off 4 (.write v) :: rest → step s = .next { s with inputs := rest, resp := .written })

/-- In every state that meets the invariant, the readback of a 16- or 32-bit table has a zero high half, and that of a 16-bit table
zero bits 31:16 (10_state.md section 2, SKDATA). -/
def Obligations.NarrowReadbackIsZeroExtended : Prop :=
  ∀ s : State, s.Inv →
    (s.curW ≠ .w64 → s.skdata.extractLsb' 32 32 = 0) ∧ (s.curW = .w16 → s.skdata.extractLsb' 16 16 = 0)

/-- DATAk while BUSY = 0: a write sets slice 32k+31:32k of BLK and leaves the other three, a read returns the slice; nothing else
changes (10_state.md R36). -/
def Obligations.DataRegisterAccess : Prop :=
  ∀ (s : State) (k : Fin 4) (rest : List Input), s.busy = false →
    (∀ v : BitVec 32, s.inputs = .port (BitVec.ofNat 12 (0x020 + 4 * k.val)) 4 (.write v) :: rest →
      ∃ t, step s = .next t ∧ t = { s with blk := t.blk, inputs := rest, resp := .written } ∧
        ∀ j : Fin 4, t.blk.extractLsb' (32 * j.val) 32 = if j = k then v else s.blk.extractLsb' (32 * j.val) 32) ∧
    (s.inputs = .port (BitVec.ofNat 12 (0x020 + 4 * k.val)) 4 .read :: rest →
      step s = .next { s with inputs := rest, resp := .data (s.blk.extractLsb' (32 * k.val) 32) })

/-- KEYk while BUSY = 0: a write sets bytes K[4k]..K[4k+3], K[4k] from bits 7:0, and leaves every other byte, K[255] being storage like
any other; a read returns the four bytes in the same places; nothing else changes (10_state.md section 2, KEY registers). -/
def Obligations.KeyRegisterAccess : Prop :=
  ∀ (s : State) (k : Fin 64) (rest : List Input), s.busy = false →
    (∀ v : BitVec 32, s.inputs = .port (BitVec.ofNat 12 (0x100 + 4 * k.val)) 4 (.write v) :: rest →
      ∃ t, step s = .next t ∧ t = { s with key := t.key, inputs := rest, resp := .written } ∧
        ∀ n : Fin 256, t.key[n] = if n.val / 4 = k.val then v.extractLsb' (8 * (n.val % 4)) 8 else s.key[n]) ∧
    (s.inputs = .port (BitVec.ofNat 12 (0x100 + 4 * k.val)) 4 .read :: rest →
      ∃ v : BitVec 32, step s = .next { s with inputs := rest, resp := .data v } ∧
        ∀ n : Fin 256, n.val / 4 = k.val → v.extractLsb' (8 * (n.val % 4)) 8 = s.key[n])

/-- Writes while BUSY = 1: to CMD, KEYk and DATAk they are discarded and record BUSY; to CTRL, STATUS and SKIDX they act as ever; to
read-only and reserved places they are ignored with no error (70_reset_and_hazards.md R175). -/
def Obligations.WritesWhileBusy : Prop :=
  ∀ (s : State) (r : RegName) (v : BitVec 32), s.busy = true → s.nextAccess = some (r, .write v) →
    step s = .next
      (match r with
        | .cmd => s.afterWrite.withError .busy
        | .key _ => s.afterWrite.withError .busy
        | .data _ => s.afterWrite.withError .busy
        | .ctrl => { s.afterWrite with ieDone := v.getLsbD 0, ieErr := v.getLsbD 1 }
        | .status =>
          { s.afterWrite with
            done := s.done && !v.getLsbD 1
            errv := s.errv && !v.getLsbD 3
            err := if v.getLsbD 3 = true then .none else s.err }
        | .skidx => { s.afterWrite with skidx := v.extractLsb' 0 9 }
        | .id | .cap | .skdataLo | .skdataHi | .reserved => s.afterWrite)

/-- Reads while BUSY = 1: of KEYk, DATAk, SKDATA_LO and SKDATA_HI they return a free value, a new one on each read; of every other place
the defined value (70_reset_and_hazards.md section 2, reads while BUSY = 1). Which free value a read takes is the model's numbering
(log 7). -/
def Obligations.ReadsWhileBusy : Prop :=
  ∀ (s : State) (r : RegName), s.busy = true → s.nextAccess = some (r, .read) →
    step s = .next
      (match r with
        | .key _ | .data _ | .skdataLo | .skdataHi =>
          { s with inputs := s.inputs.tail, resp := .data (Config.freeRead s.draws), draws := s.draws + 1 }
        | .id => { s with inputs := s.inputs.tail, resp := .data 0x52433544#32 }
        | .cap => { s with inputs := s.inputs.tail, resp := .data 0x00FFFF07#32 }
        | .ctrl => { s with inputs := s.inputs.tail, resp := .data s.ctrlWord }
        | .status => { s with inputs := s.inputs.tail, resp := .data s.statusWord }
        | .skidx => { s with inputs := s.inputs.tail, resp := .data (s.skidx.setWidth 32) }
        | .cmd | .reserved => { s with inputs := s.inputs.tail, resp := .data 0 })

/-- Where the block's words lie: A and B in DATA0..DATA3 for each width, and byte k of the block in bits 8k+7..8k of BLK, A's bytes
before B's (20_memory.md section 2, block byte order). -/
def Obligations.BlockLayout : Prop :=
  ∀ s : State,
    blockA .w16 s.blk = (s.dataReg 0).extractLsb' 0 16 ∧ blockB .w16 s.blk = (s.dataReg 0).extractLsb' 16 16 ∧
    blockA .w32 s.blk = s.dataReg 0 ∧ blockB .w32 s.blk = s.dataReg 1 ∧
    blockA .w64 s.blk = s.dataReg 1 ++ s.dataReg 0 ∧ blockB .w64 s.blk = s.dataReg 3 ++ s.dataReg 2 ∧
    ∀ (W : Width) (k : Nat),
      (k < W.bytes → (blockA W s.blk).extractLsb' (8 * k) 8 = s.blk.extractLsb' (8 * k) 8) ∧
      (k < W.bytes → (blockB W s.blk).extractLsb' (8 * k) 8 = s.blk.extractLsb' (8 * (W.bytes + k)) 8)

/-- Key byte k of the SecretKey is K[k], for k below its length b, and lies in bits 8(k mod 4)+7..8(k mod 4) of KEY(k div 4); and for W = 32 KEYk is the key word L[k] before
mixing whenever 4k+3 < b (20_memory.md section 2, key byte order). -/
def Obligations.KeyByteOrder : Prop :=
  ∀ s : State,
    (∀ (k : Fin 256) (n : Fin 64), n.val = k.val / 4 → (s.keyReg n).extractLsb' (8 * (k.val % 4)) 8 = s.key[k]) ∧
    (∀ b : Nat, b ≤ 255 →
      (keyBytes s.key b).length = b ∧ ∀ k : Fin 256, k.val < b → (keyBytes s.key b)[k.val]? = some s.key[k]) ∧
    (∀ (b : Nat) (k : Fin 64), b ≤ 255 → 4 * k.val + 3 < b →
      (packL .w32 (keyBytes s.key b))[k.val]? = some (s.keyReg k))

/-! ### Reset and the invariant -/

/-- Reset, at any moment and whatever is pending: every piece of state takes its reset value, a pending command is abandoned with no
effect and DONE is not set, every register reads its reset value, IRQ is 0 (10_state.md R44; 70_reset_and_hazards.md R170, R171). -/
def Obligations.ResetSetsEverything : Prop :=
  ∀ s : State, s.resetNext = true →
    ∃ t, step s = .next t ∧
      t.ieDone = false ∧ t.ieErr = false ∧ t.busy = false ∧ t.done = false ∧ t.skv = false ∧ t.errv = false ∧
      t.err = .none ∧ t.curW = .w16 ∧ t.curR = 0 ∧ t.skidx = 0 ∧ t.blk = 0 ∧ (∀ n : Fin 256, t.key[n] = 0) ∧
      (∀ n : Fin 512, t.sub[n] = 0) ∧ t.pend = none ∧
      (∀ n : Fin 128, t.dp.l[n] = 0) ∧ t.dp.a = 0 ∧ t.dp.b = 0 ∧ t.dp.i = 0 ∧ t.dp.j = 0 ∧ t.dp.mixCount = 0 ∧
      t.dp.roundCount = 0 ∧ t.irq = false ∧
      (∀ r : RegName, t.regValue r =
        match r with
        | .id => 0x52433544#32
        | .cap => 0x00FFFF07#32
        | _ => 0)

/-- The invariant holds after reset. -/
def Obligations.InvariantHoldsAtReset : Prop := State.reset.Inv

/-- Every step keeps the invariant: the error report is consistent, CUR_WSEL and CUR_R are 0 with no table and r is 1..255 with one, a
valid table is the key scheduler's of some key with 0 past it, a pending EXPAND has no table and a pending DECRYPT has one, and
DONE is 0 while BUSY (10_state.md sections 2 and 3; 43_control.md section 1). -/
def Obligations.EveryStepKeepsTheInvariant : Prop :=
  ∀ s t : State, s.Inv → step s = .next t → t.Inv

/-! ### Word arithmetic -/

/-- add_W and sub_W are exact addition and subtraction taken modulo 2^W, for every width (40_word_ops.md R91). -/
def Obligations.AddSubWrapModulo : Prop :=
  ∀ (W : Width) (x y : Word W),
    (addW x y).toNat = (x.toNat + y.toNat) % 2 ^ W.bits ∧
    ((subW x y).toNat : Int) = ((x.toNat : Int) - (y.toNat : Int)) % ((2 ^ W.bits : Nat) : Int)

/-- rotl_W moves bit k to bit (k + s) mod W and rotr_W moves bit (k + s) mod W to bit k, so only s mod W matters and an amount that is
a multiple of W changes nothing (40_word_ops.md, rotation; the spec marks the formula and direction as general knowledge, log 14). -/
def Obligations.RotationsMoveBits : Prop :=
  ∀ (W : Width) (x : Word W) (s k : Nat), k < W.bits →
    (rotlW x s).getLsbD ((k + s) % W.bits) = x.getLsbD k ∧
    (rotrW x s).getLsbD k = x.getLsbD ((k + s) % W.bits) ∧
    rotlW x s = rotlW x (s % W.bits) ∧ rotrW x s = rotrW x (s % W.bits) ∧
    (s % W.bits = 0 → rotlW x s = x ∧ rotrW x s = x)

/-- The inverse laws that the inverse round rests on, and that bit k of x xor y is the exclusive or of the bits k (40_word_ops.md,
inverse laws and exclusive or; the spec marks the meaning of XOR as general knowledge, log 14). -/
def Obligations.InverseLaws : Prop :=
  ∀ (W : Width) (x y : Word W) (s : Nat),
    rotrW (rotlW x s) s = x ∧ subW (addW x y) y = x ∧ xorW (xorW x y) y = x ∧
    ∀ k : Nat, k < W.bits → (xorW x y).getLsbD k = ((x.getLsbD k && !y.getLsbD k) || (!x.getLsbD k && y.getLsbD k))

/-! ### The key scheduler -/

/-- The six magic constants; and InitS has t = 2(r+1) words, S[0] = P_W, S[i] = S[i-1] + Q_W, and S[i] = (P_W + i Q_W) mod 2^W
(41_key_schedule.md section 1 and section 2, InitS). The spec marks the values of the constants as general knowledge (log 14). -/
def Obligations.InitSClosedForm : Prop :=
  ((magicP .w16).toNat = 0xB7E1 ∧ (magicQ .w16).toNat = 0x9E37 ∧
    (magicP .w32).toNat = 0xB7E15163 ∧ (magicQ .w32).toNat = 0x9E3779B9 ∧
    (magicP .w64).toNat = 0xB7E151628AED2A6B ∧ (magicQ .w64).toNat = 0x9E3779B97F4A7C15) ∧
  ∀ (W : Width) (r : Nat),
    (initS W r).length = 2 * (r + 1) ∧
    (initS W r)[0]? = some (magicP W) ∧
    (∀ i, i + 1 < 2 * (r + 1) → (initS W r)[i + 1]? = (initS W r)[i]?.map fun x => addW x (magicQ W)) ∧
    (∀ i, i < 2 * (r + 1) →
      (initS W r)[i]?.map BitVec.toNat = some (((magicP W).toNat + i * (magicQ W).toNat) % 2 ^ W.bits))

/-- PackL gives c = max(1, ceil(b/u)) words; key byte k lies in bits 8(k mod u)+7..8(k mod u) of L[k div u]; every other bit of every
word is 0 (41_key_schedule.md R103). -/
def Obligations.PackLPlacesBytes : Prop :=
  ∀ (W : Width) (key : List Byte),
    (packL W key).length = max 1 ((key.length + W.bytes - 1) / W.bytes) ∧
    ∀ m p, m < (packL W key).length → p < W.bits →
      ((packL W key).getD m 0).getLsbD p = ((key.getD (m * W.bytes + p / 8) 0).getLsbD (p % 8))

/-- ExpandKey (41_key_schedule.md R105) is InitS, then PackL, then Mix, and its result is S after mixing. Mix (R104): iteration k uses S[k mod t] and L[k mod c], A and B start at 0, its first line makes the new A and
the new S[k mod t], its second line makes the new B and the new L[k mod c] from the new A and the old B, nothing else changes, and
3 max(t, c) iterations are run. -/
def Obligations.MixIterations : Prop :=
  (∀ (W : Width) (r : Nat) (key : List Byte), expandKey W r key = (mix (initS W r) (packL W key)).s) ∧
  ∀ (W : Width) (s l : List (Word W)), s ≠ [] → l ≠ [] →
    ∃ run : Nat → MixVars W,
      (run 0).s = s ∧ (run 0).l = l ∧ (run 0).a = 0 ∧ (run 0).b = 0 ∧
      (∀ k,
        (run (k + 1)).a = rotlW (addW (addW ((run k).s.getD (k % s.length) 0) (run k).a) (run k).b) 3 ∧
        (run (k + 1)).s = (run k).s.set (k % s.length) (run (k + 1)).a ∧
        (run (k + 1)).b =
          rotlW (addW (addW ((run k).l.getD (k % l.length) 0) (run (k + 1)).a) (run k).b)
            ((addW (run (k + 1)).a (run k).b).toNat % W.bits) ∧
        (run (k + 1)).l = (run k).l.set (k % l.length) (run (k + 1)).b) ∧
      mix s l = run (3 * max s.length l.length)

/-- EXPAND reads exactly K[0..b-1]: two states that agree on those bytes, each with the same EXPAND pending, have the same S, table
report after its completion, whatever else they hold (41_key_schedule.md section 2, key bytes used). -/
def Obligations.ExpandReadsOnlyTheKey : Prop :=
  ∀ (s s' t t' : State) (W : Width) (r b : BitVec 8),
    s.pend = some (.expand W r b) → s'.pend = some (.expand W r b) →
    s.engineTurn = true → s'.engineTurn = true →
    (∀ n : Fin 256, n.val < b.toNat → s.key[n] = s'.key[n]) →
    step s = .next t → step s' = .next t' →
    t.sub = t'.sub ∧ t.skv = t'.skv ∧ t.curW = t'.curW ∧ t.curR = t'.curR

/-! ### The decryption engine -/

/-- DecryptBlock (42_decrypt.md R120): rounds i = r, r-1, ..., 1; each makes the new B from the old A and B with S[2i+1], then the new A
from the old A and the new B with S[2i]; after them S[1] is subtracted from B and S[0] from A. -/
def Obligations.DecryptBlockRounds : Prop :=
  ∀ (W : Width) (S : Nat → Word W) (r : Nat) (ab : Word W × Word W),
    ∃ A B : Nat → Word W,
      A r = ab.1 ∧ B r = ab.2 ∧
      (∀ i, 1 ≤ i → i ≤ r → ∃ B₁ A₁ : Word W,
        B₁ = rotrW (subW (B i) (S (2 * i + 1))) (A i).toNat ∧ B (i - 1) = xorW B₁ (A i) ∧
        A₁ = rotrW (subW (A i) (S (2 * i))) (B (i - 1)).toNat ∧ A (i - 1) = xorW A₁ (B (i - 1))) ∧
      decryptBlock S r ab = (subW (A 0) (S 0), subW (B 0) (S 1))

/-- EncRef (42_decrypt.md section 1, the forward transform): S[0] is added to A and S[1] to B, which the spec derives (log 19); then
rounds i = 1, 2, ..., r, each making the new A with S[2i], then the new B from the new A with S[2i+1]. -/
def Obligations.EncRefRounds : Prop :=
  ∀ (W : Width) (S : Nat → Word W) (r : Nat) (ab : Word W × Word W),
    ∃ A B : Nat → Word W,
      A 0 = addW ab.1 (S 0) ∧ B 0 = addW ab.2 (S 1) ∧
      (∀ i, 1 ≤ i → i ≤ r →
        A i = addW (rotlW (xorW (A (i - 1)) (B (i - 1))) (B (i - 1)).toNat) (S (2 * i)) ∧
        B i = addW (rotlW (xorW (B (i - 1)) (A i)) (A i).toNat) (S (2 * i + 1))) ∧
      encRef S r ab = (A r, B r)

/-- DecryptBlock undoes EncRef and EncRef undoes DecryptBlock, for any width, round count, subkeys and block, so for every table that
ExpandKey makes (42_decrypt.md section 1, the round-trip law). EncRef's initial additions are the spec's inference (log 19). -/
def Obligations.DecryptUndoesEncryption : Prop :=
  ∀ (W : Width) (S : Nat → Word W) (r : Nat) (ab : Word W × Word W),
    decryptBlock S r (encRef S r ab) = ab ∧ encRef S r (decryptBlock S r ab) = ab

/-- DECRYPT's result is a function of the table and the block alone: two states with the same width and round count, the same W-bit
words in S[0..2r+1] and the same BLK[2W-1:0], each with DECRYPT pending, have the same BLK[2W-1:0] after its completion; no bit of
BLK or of S's entries above the words is read (42_decrypt.md section 1; 40_word_ops.md R95). -/
def Obligations.DecryptReadsOnlyTableAndBlock : Prop :=
  ∀ s s' t t' : State,
    s.pend = some .decrypt → s'.pend = some .decrypt → s.engineTurn = true → s'.engineTurn = true →
    s.curW = s'.curW → s.curR = s'.curR →
    (∀ n : Fin 512, n.val < 2 * (s.curR.toNat + 1) → (s.sub[n]).setWidth s.curW.bits = (s'.sub[n]).setWidth s.curW.bits) →
    s.blk.extractLsb' 0 (2 * s.curW.bits) = s'.blk.extractLsb' 0 (2 * s.curW.bits) →
    step s = .next t → step s' = .next t' →
    t.blk.extractLsb' 0 (2 * s.curW.bits) = t'.blk.extractLsb' 0 (2 * s.curW.bits)

/-- The block decrypts what its key encrypted: from any state with no command pending, whose BLK holds EncRef of a block (A, B) under the
table that ExpandKey makes of K[0..b-1], the host's EXPAND, its completion, the host's DECRYPT and its completion leave (A, B) in BLK,
with BUSY = 0, DONE = 1, no error recorded that was not before, and K and BLK's bits above the block as they were (00_scope.md
section 1; 42_decrypt.md section 1). EncRef's initial additions are the spec's inference (log 19). -/
def Obligations.ExpandThenDecryptRecoversPlaintext : Prop :=
  ∀ (s : State) (wsel : BitVec 2) (W : Width) (r b : BitVec 8) (ab : Word W × Word W) (rest : List Input),
    s.busy = false → decodeW wsel = some W → r ≠ 0 →
    (s.blk.extractLsb' 0 W.bits, s.blk.extractLsb' W.bits W.bits) =
      encRef (fun n => (expandKey W r.toNat (keyBytes s.key b.toNat)).getD n 0) r.toNat ab →
    ∃ t : State,
      Sys2Proof.core.run 4
        { s with inputs :=
            .port 0x010#12 4 (.write (encode (.expand wsel r b))) :: .engine ::
              .port 0x010#12 4 (.write (encode .decrypt)) :: .engine :: rest } = .next t ∧
      (t.blk.extractLsb' 0 W.bits, t.blk.extractLsb' W.bits W.bits) = ab ∧
      t.busy = false ∧ t.done = true ∧ t.errv = s.errv ∧ t.err = s.err ∧ t.key = s.key ∧
      t.skv = true ∧ t.curW = W ∧ t.curR = r ∧ t.inputs = rest ∧
      ∀ k : Nat, 2 * W.bits ≤ k → t.blk.getLsbD k = s.blk.getLsbD k
end

