-- ==== Sys2Proof/Laws/Decode.lean ====
section
/-! SUPPORT. What decoding a word can give, once. -/

namespace Sys2Proof

/-- A word with no bit set above OP is its OP. -/
theorem word_of_fieldRest_zero (v : BitVec 32) (h : fieldRest v = 0) : v = (fieldOp v).setWidth 32 := by
  apply BitVec.eq_of_getLsbD_eq; intro i hi
  by_cases h4 : i < 4
  · simp [fieldOp, h4, hi]
  · have := congrArg (fun x => x.getLsbD (i-4)) h
    simp only [fieldRest, BitVec.getLsbD_extractLsb'] at this
    have e : 4 + (i - 4) = i := by omega
    rw [e] at this
    have e2 : i - 4 < 28 := by omega
    simp [e2] at this
    rw [this]
    simp [fieldOp, hi, h4]

/-- Every word is one of these: an OP in 5..15; an EXPAND with a reserved bit set; an EXPAND; another command with a reserved bit
set; or one of the four words of the commands without operands. -/
theorem decodeWord_cases (v : BitVec 32) :
   (5 ≤ (fieldOp v).toNat ∧ decodeWord v = .illegalOp) ∨
   (fieldOp v = 2#4 ∧ fieldRsv v ≠ 0 ∧ decodeWord v = .reservedBitsExpand) ∨
   (fieldOp v = 2#4 ∧ fieldRsv v = 0 ∧ decodeWord v = .command (.expand (fieldWsel v) (fieldR v) (fieldB v))) ∨
   (fieldOp v ∈ [0#4, 1#4, 3#4, 4#4] ∧ fieldRest v ≠ 0 ∧ decodeWord v = .reservedBits) ∨
   (fieldRest v = 0 ∧
    ((fieldOp v = 0#4 ∧ v = 0#32 ∧ decodeWord v = .command .nop) ∨
     (fieldOp v = 1#4 ∧ v = 1#32 ∧ decodeWord v = .command .keyclr) ∨
     (fieldOp v = 3#4 ∧ v = 3#32 ∧ decodeWord v = .command .decrypt) ∨
     (fieldOp v = 4#4 ∧ v = 4#32 ∧ decodeWord v = .command .clear))) := by
  have hlt := (fieldOp v).isLt
  have op : ∀ n : Nat, n < 16 → (fieldOp v).toNat = n → fieldOp v = BitVec.ofNat 4 n := by
    intro n hn h
    apply BitVec.eq_of_toNat_eq
    simp
    omega
  have cases6 : (fieldOp v).toNat = 0 ∨ (fieldOp v).toNat = 1 ∨ (fieldOp v).toNat = 2 ∨ (fieldOp v).toNat = 3 ∨
      (fieldOp v).toNat = 4 ∨ 5 ≤ (fieldOp v).toNat := by omega
  have bare : ∀ n i, n < 16 → (fieldOp v).toNat = n → decodeWord v = decodeBare v i →
      (fieldRest v ≠ 0 ∧ decodeWord v = .reservedBits) ∨
      (fieldRest v = 0 ∧ v = BitVec.ofNat 32 n ∧ decodeWord v = .command i) := by
    intro n i hn h hd
    by_cases hf : fieldRest v = 0
    · refine .inr ⟨hf, ?_, by rw [hd, decodeBare, if_pos hf]⟩
      rw [word_of_fieldRest_zero v hf, op n hn h]
      apply BitVec.eq_of_toNat_eq
      simp
      omega
    · exact .inl ⟨hf, by rw [hd, decodeBare, if_neg hf]⟩
  rcases cases6 with h | h | h | h | h | h
  · have k := op 0 (by decide) h
    rcases bare 0 .nop (by decide) h (by unfold decodeWord; simp only [h]) with ⟨hf, e⟩ | ⟨hf, hv, e⟩
    · exact .inr (.inr (.inr (.inl ⟨by simp [k], hf, e⟩)))
    · exact .inr (.inr (.inr (.inr ⟨hf, .inl ⟨k, hv, e⟩⟩)))
  · have k := op 1 (by decide) h
    rcases bare 1 .keyclr (by decide) h (by unfold decodeWord; simp only [h]) with ⟨hf, e⟩ | ⟨hf, hv, e⟩
    · exact .inr (.inr (.inr (.inl ⟨by simp [k], hf, e⟩)))
    · exact .inr (.inr (.inr (.inr ⟨hf, .inr (.inl ⟨k, hv, e⟩)⟩)))
  · have k := op 2 (by decide) h
    have hd : decodeWord v = decodeExpand v := by unfold decodeWord; simp only [h]
    by_cases hf : fieldRsv v = 0
    · exact .inr (.inr (.inl ⟨k, hf, by rw [hd, decodeExpand, if_pos hf]⟩))
    · exact .inr (.inl ⟨k, hf, by rw [hd, decodeExpand, if_neg hf]⟩)
  · have k := op 3 (by decide) h
    rcases bare 3 .decrypt (by decide) h (by unfold decodeWord; simp only [h]) with ⟨hf, e⟩ | ⟨hf, hv, e⟩
    · exact .inr (.inr (.inr (.inl ⟨by simp [k], hf, e⟩)))
    · exact .inr (.inr (.inr (.inr ⟨hf, .inr (.inr (.inl ⟨k, hv, e⟩))⟩)))
  · have k := op 4 (by decide) h
    rcases bare 4 .clear (by decide) h (by unfold decodeWord; simp only [h]) with ⟨hf, e⟩ | ⟨hf, hv, e⟩
    · exact .inr (.inr (.inr (.inl ⟨by simp [k], hf, e⟩)))
    · exact .inr (.inr (.inr (.inr ⟨hf, .inr (.inr (.inr ⟨k, hv, e⟩))⟩)))
  · refine .inl ⟨h, ?_⟩
    unfold decodeWord
    split <;> first | omega | rfl

end Sys2Proof
end

