-- ==== Sys2Proof/Laws/State.lean ====
section
/-! SUPPORT. One lemma for each field of State and each update of it, so that no later proof unfolds an update. -/

namespace Sys2Proof.Machine

/-! ### killTable -/

@[simp] theorem killTable_ieDone (s : State) : (killTable s).ieDone = s.ieDone := rfl
@[simp] theorem killTable_ieErr (s : State) : (killTable s).ieErr = s.ieErr := rfl
@[simp] theorem killTable_done (s : State) : (killTable s).done = s.done := rfl
@[simp] theorem killTable_skv (s : State) : (killTable s).skv = false := rfl
@[simp] theorem killTable_errv (s : State) : (killTable s).errv = s.errv := rfl
@[simp] theorem killTable_err (s : State) : (killTable s).err = s.err := rfl
@[simp] theorem killTable_curW (s : State) : (killTable s).curW = .w16 := rfl
@[simp] theorem killTable_curR (s : State) : (killTable s).curR = 0 := rfl
@[simp] theorem killTable_skidx (s : State) : (killTable s).skidx = s.skidx := rfl
@[simp] theorem killTable_blk (s : State) : (killTable s).blk = s.blk := rfl
@[simp] theorem killTable_key (s : State) : (killTable s).key = s.key := rfl
@[simp] theorem killTable_sub (s : State) : (killTable s).sub = s.sub := rfl
@[simp] theorem killTable_pend (s : State) : (killTable s).pend = s.pend := rfl
@[simp] theorem killTable_dp (s : State) : (killTable s).dp = s.dp := rfl
@[simp] theorem killTable_inputs (s : State) : (killTable s).inputs = s.inputs := rfl
@[simp] theorem killTable_resp (s : State) : (killTable s).resp = s.resp := rfl
@[simp] theorem killTable_draws (s : State) : (killTable s).draws = s.draws := rfl
@[simp] theorem killTable_busy (s : State) : (killTable s).busy = s.busy := rfl

/-! ### clearError -/

@[simp] theorem clearError_ieDone (s : State) : (clearError s).ieDone = s.ieDone := rfl
@[simp] theorem clearError_ieErr (s : State) : (clearError s).ieErr = s.ieErr := rfl
@[simp] theorem clearError_done (s : State) : (clearError s).done = s.done := rfl
@[simp] theorem clearError_skv (s : State) : (clearError s).skv = s.skv := rfl
@[simp] theorem clearError_errv (s : State) : (clearError s).errv = false := rfl
@[simp] theorem clearError_err (s : State) : (clearError s).err = .none := rfl
@[simp] theorem clearError_curW (s : State) : (clearError s).curW = s.curW := rfl
@[simp] theorem clearError_curR (s : State) : (clearError s).curR = s.curR := rfl
@[simp] theorem clearError_skidx (s : State) : (clearError s).skidx = s.skidx := rfl
@[simp] theorem clearError_blk (s : State) : (clearError s).blk = s.blk := rfl
@[simp] theorem clearError_key (s : State) : (clearError s).key = s.key := rfl
@[simp] theorem clearError_sub (s : State) : (clearError s).sub = s.sub := rfl
@[simp] theorem clearError_pend (s : State) : (clearError s).pend = s.pend := rfl
@[simp] theorem clearError_dp (s : State) : (clearError s).dp = s.dp := rfl
@[simp] theorem clearError_inputs (s : State) : (clearError s).inputs = s.inputs := rfl
@[simp] theorem clearError_resp (s : State) : (clearError s).resp = s.resp := rfl
@[simp] theorem clearError_draws (s : State) : (clearError s).draws = s.draws := rfl
@[simp] theorem clearError_busy (s : State) : (clearError s).busy = s.busy := rfl

/-! ### clearDone -/

@[simp] theorem clearDone_ieDone (s : State) : (clearDone s).ieDone = s.ieDone := rfl
@[simp] theorem clearDone_ieErr (s : State) : (clearDone s).ieErr = s.ieErr := rfl
@[simp] theorem clearDone_done (s : State) : (clearDone s).done = false := rfl
@[simp] theorem clearDone_skv (s : State) : (clearDone s).skv = s.skv := rfl
@[simp] theorem clearDone_errv (s : State) : (clearDone s).errv = s.errv := rfl
@[simp] theorem clearDone_err (s : State) : (clearDone s).err = s.err := rfl
@[simp] theorem clearDone_curW (s : State) : (clearDone s).curW = s.curW := rfl
@[simp] theorem clearDone_curR (s : State) : (clearDone s).curR = s.curR := rfl
@[simp] theorem clearDone_skidx (s : State) : (clearDone s).skidx = s.skidx := rfl
@[simp] theorem clearDone_blk (s : State) : (clearDone s).blk = s.blk := rfl
@[simp] theorem clearDone_key (s : State) : (clearDone s).key = s.key := rfl
@[simp] theorem clearDone_sub (s : State) : (clearDone s).sub = s.sub := rfl
@[simp] theorem clearDone_pend (s : State) : (clearDone s).pend = s.pend := rfl
@[simp] theorem clearDone_dp (s : State) : (clearDone s).dp = s.dp := rfl
@[simp] theorem clearDone_inputs (s : State) : (clearDone s).inputs = s.inputs := rfl
@[simp] theorem clearDone_resp (s : State) : (clearDone s).resp = s.resp := rfl
@[simp] theorem clearDone_draws (s : State) : (clearDone s).draws = s.draws := rfl
@[simp] theorem clearDone_busy (s : State) : (clearDone s).busy = s.busy := rfl

/-! ### accept -/

@[simp] theorem accept_ieDone (p : Pending) (s : State) : (accept p s).ieDone = s.ieDone := rfl
@[simp] theorem accept_ieErr (p : Pending) (s : State) : (accept p s).ieErr = s.ieErr := rfl
@[simp] theorem accept_done (p : Pending) (s : State) : (accept p s).done = false := rfl
@[simp] theorem accept_skv (p : Pending) (s : State) : (accept p s).skv = s.skv := rfl
@[simp] theorem accept_errv (p : Pending) (s : State) : (accept p s).errv = s.errv := rfl
@[simp] theorem accept_err (p : Pending) (s : State) : (accept p s).err = s.err := rfl
@[simp] theorem accept_curW (p : Pending) (s : State) : (accept p s).curW = s.curW := rfl
@[simp] theorem accept_curR (p : Pending) (s : State) : (accept p s).curR = s.curR := rfl
@[simp] theorem accept_skidx (p : Pending) (s : State) : (accept p s).skidx = s.skidx := rfl
@[simp] theorem accept_blk (p : Pending) (s : State) : (accept p s).blk = s.blk := rfl
@[simp] theorem accept_key (p : Pending) (s : State) : (accept p s).key = s.key := rfl
@[simp] theorem accept_sub (p : Pending) (s : State) : (accept p s).sub = s.sub := rfl
@[simp] theorem accept_pend (p : Pending) (s : State) : (accept p s).pend = some p := rfl
@[simp] theorem accept_dp (p : Pending) (s : State) : (accept p s).dp = s.dp := rfl
@[simp] theorem accept_inputs (p : Pending) (s : State) : (accept p s).inputs = s.inputs := rfl
@[simp] theorem accept_resp (p : Pending) (s : State) : (accept p s).resp = s.resp := rfl
@[simp] theorem accept_draws (p : Pending) (s : State) : (accept p s).draws = s.draws := rfl
@[simp] theorem accept_busy (p : Pending) (s : State) : (accept p s).busy = true := rfl

/-! ### finish -/

@[simp] theorem finish_ieDone (s : State) : (finish s).ieDone = s.ieDone := rfl
@[simp] theorem finish_ieErr (s : State) : (finish s).ieErr = s.ieErr := rfl
@[simp] theorem finish_done (s : State) : (finish s).done = true := rfl
@[simp] theorem finish_skv (s : State) : (finish s).skv = s.skv := rfl
@[simp] theorem finish_errv (s : State) : (finish s).errv = s.errv := rfl
@[simp] theorem finish_err (s : State) : (finish s).err = s.err := rfl
@[simp] theorem finish_curW (s : State) : (finish s).curW = s.curW := rfl
@[simp] theorem finish_curR (s : State) : (finish s).curR = s.curR := rfl
@[simp] theorem finish_skidx (s : State) : (finish s).skidx = s.skidx := rfl
@[simp] theorem finish_blk (s : State) : (finish s).blk = s.blk := rfl
@[simp] theorem finish_key (s : State) : (finish s).key = s.key := rfl
@[simp] theorem finish_sub (s : State) : (finish s).sub = s.sub := rfl
@[simp] theorem finish_pend (s : State) : (finish s).pend = none := rfl
@[simp] theorem finish_dp (s : State) : (finish s).dp = s.dp := rfl
@[simp] theorem finish_inputs (s : State) : (finish s).inputs = s.inputs := rfl
@[simp] theorem finish_resp (s : State) : (finish s).resp = s.resp := rfl
@[simp] theorem finish_draws (s : State) : (finish s).draws = s.draws := rfl
@[simp] theorem finish_busy (s : State) : (finish s).busy = false := rfl

/-! ### scrambleDatapath -/

@[simp] theorem scrambleDatapath_ieDone (s : State) : (scrambleDatapath s).ieDone = s.ieDone := rfl
@[simp] theorem scrambleDatapath_ieErr (s : State) : (scrambleDatapath s).ieErr = s.ieErr := rfl
@[simp] theorem scrambleDatapath_done (s : State) : (scrambleDatapath s).done = s.done := rfl
@[simp] theorem scrambleDatapath_skv (s : State) : (scrambleDatapath s).skv = s.skv := rfl
@[simp] theorem scrambleDatapath_errv (s : State) : (scrambleDatapath s).errv = s.errv := rfl
@[simp] theorem scrambleDatapath_err (s : State) : (scrambleDatapath s).err = s.err := rfl
@[simp] theorem scrambleDatapath_curW (s : State) : (scrambleDatapath s).curW = s.curW := rfl
@[simp] theorem scrambleDatapath_curR (s : State) : (scrambleDatapath s).curR = s.curR := rfl
@[simp] theorem scrambleDatapath_skidx (s : State) : (scrambleDatapath s).skidx = s.skidx := rfl
@[simp] theorem scrambleDatapath_blk (s : State) : (scrambleDatapath s).blk = s.blk := rfl
@[simp] theorem scrambleDatapath_key (s : State) : (scrambleDatapath s).key = s.key := rfl
@[simp] theorem scrambleDatapath_sub (s : State) : (scrambleDatapath s).sub = s.sub := rfl
@[simp] theorem scrambleDatapath_pend (s : State) : (scrambleDatapath s).pend = s.pend := rfl
@[simp] theorem scrambleDatapath_dp (s : State) : (scrambleDatapath s).dp = Config.freeDatapath s.draws := rfl
@[simp] theorem scrambleDatapath_inputs (s : State) : (scrambleDatapath s).inputs = s.inputs := rfl
@[simp] theorem scrambleDatapath_resp (s : State) : (scrambleDatapath s).resp = s.resp := rfl
@[simp] theorem scrambleDatapath_draws (s : State) : (scrambleDatapath s).draws = s.draws + 1 := rfl
@[simp] theorem scrambleDatapath_busy (s : State) : (scrambleDatapath s).busy = s.busy := rfl

/-! ### writeCtrl -/

@[simp] theorem writeCtrl_ieDone (v : Reg32) (s : State) : (writeCtrl v s).ieDone = v.getLsbD 0 := rfl
@[simp] theorem writeCtrl_ieErr (v : Reg32) (s : State) : (writeCtrl v s).ieErr = v.getLsbD 1 := rfl
@[simp] theorem writeCtrl_done (v : Reg32) (s : State) : (writeCtrl v s).done = s.done := rfl
@[simp] theorem writeCtrl_skv (v : Reg32) (s : State) : (writeCtrl v s).skv = s.skv := rfl
@[simp] theorem writeCtrl_errv (v : Reg32) (s : State) : (writeCtrl v s).errv = s.errv := rfl
@[simp] theorem writeCtrl_err (v : Reg32) (s : State) : (writeCtrl v s).err = s.err := rfl
@[simp] theorem writeCtrl_curW (v : Reg32) (s : State) : (writeCtrl v s).curW = s.curW := rfl
@[simp] theorem writeCtrl_curR (v : Reg32) (s : State) : (writeCtrl v s).curR = s.curR := rfl
@[simp] theorem writeCtrl_skidx (v : Reg32) (s : State) : (writeCtrl v s).skidx = s.skidx := rfl
@[simp] theorem writeCtrl_blk (v : Reg32) (s : State) : (writeCtrl v s).blk = s.blk := rfl
@[simp] theorem writeCtrl_key (v : Reg32) (s : State) : (writeCtrl v s).key = s.key := rfl
@[simp] theorem writeCtrl_sub (v : Reg32) (s : State) : (writeCtrl v s).sub = s.sub := rfl
@[simp] theorem writeCtrl_pend (v : Reg32) (s : State) : (writeCtrl v s).pend = s.pend := rfl
@[simp] theorem writeCtrl_dp (v : Reg32) (s : State) : (writeCtrl v s).dp = s.dp := rfl
@[simp] theorem writeCtrl_inputs (v : Reg32) (s : State) : (writeCtrl v s).inputs = s.inputs := rfl
@[simp] theorem writeCtrl_resp (v : Reg32) (s : State) : (writeCtrl v s).resp = s.resp := rfl
@[simp] theorem writeCtrl_draws (v : Reg32) (s : State) : (writeCtrl v s).draws = s.draws := rfl
@[simp] theorem writeCtrl_busy (v : Reg32) (s : State) : (writeCtrl v s).busy = s.busy := rfl

/-! ### writeSkidx -/

@[simp] theorem writeSkidx_ieDone (v : Reg32) (s : State) : (writeSkidx v s).ieDone = s.ieDone := rfl
@[simp] theorem writeSkidx_ieErr (v : Reg32) (s : State) : (writeSkidx v s).ieErr = s.ieErr := rfl
@[simp] theorem writeSkidx_done (v : Reg32) (s : State) : (writeSkidx v s).done = s.done := rfl
@[simp] theorem writeSkidx_skv (v : Reg32) (s : State) : (writeSkidx v s).skv = s.skv := rfl
@[simp] theorem writeSkidx_errv (v : Reg32) (s : State) : (writeSkidx v s).errv = s.errv := rfl
@[simp] theorem writeSkidx_err (v : Reg32) (s : State) : (writeSkidx v s).err = s.err := rfl
@[simp] theorem writeSkidx_curW (v : Reg32) (s : State) : (writeSkidx v s).curW = s.curW := rfl
@[simp] theorem writeSkidx_curR (v : Reg32) (s : State) : (writeSkidx v s).curR = s.curR := rfl
@[simp] theorem writeSkidx_skidx (v : Reg32) (s : State) : (writeSkidx v s).skidx = v.extractLsb' 0 9 := rfl
@[simp] theorem writeSkidx_blk (v : Reg32) (s : State) : (writeSkidx v s).blk = s.blk := rfl
@[simp] theorem writeSkidx_key (v : Reg32) (s : State) : (writeSkidx v s).key = s.key := rfl
@[simp] theorem writeSkidx_sub (v : Reg32) (s : State) : (writeSkidx v s).sub = s.sub := rfl
@[simp] theorem writeSkidx_pend (v : Reg32) (s : State) : (writeSkidx v s).pend = s.pend := rfl
@[simp] theorem writeSkidx_dp (v : Reg32) (s : State) : (writeSkidx v s).dp = s.dp := rfl
@[simp] theorem writeSkidx_inputs (v : Reg32) (s : State) : (writeSkidx v s).inputs = s.inputs := rfl
@[simp] theorem writeSkidx_resp (v : Reg32) (s : State) : (writeSkidx v s).resp = s.resp := rfl
@[simp] theorem writeSkidx_draws (v : Reg32) (s : State) : (writeSkidx v s).draws = s.draws := rfl
@[simp] theorem writeSkidx_busy (v : Reg32) (s : State) : (writeSkidx v s).busy = s.busy := rfl

/-! ### respond -/

@[simp] theorem respond_ieDone (x : Response) (s : State) : (respond x s).ieDone = s.ieDone := rfl
@[simp] theorem respond_ieErr (x : Response) (s : State) : (respond x s).ieErr = s.ieErr := rfl
@[simp] theorem respond_done (x : Response) (s : State) : (respond x s).done = s.done := rfl
@[simp] theorem respond_skv (x : Response) (s : State) : (respond x s).skv = s.skv := rfl
@[simp] theorem respond_errv (x : Response) (s : State) : (respond x s).errv = s.errv := rfl
@[simp] theorem respond_err (x : Response) (s : State) : (respond x s).err = s.err := rfl
@[simp] theorem respond_curW (x : Response) (s : State) : (respond x s).curW = s.curW := rfl
@[simp] theorem respond_curR (x : Response) (s : State) : (respond x s).curR = s.curR := rfl
@[simp] theorem respond_skidx (x : Response) (s : State) : (respond x s).skidx = s.skidx := rfl
@[simp] theorem respond_blk (x : Response) (s : State) : (respond x s).blk = s.blk := rfl
@[simp] theorem respond_key (x : Response) (s : State) : (respond x s).key = s.key := rfl
@[simp] theorem respond_sub (x : Response) (s : State) : (respond x s).sub = s.sub := rfl
@[simp] theorem respond_pend (x : Response) (s : State) : (respond x s).pend = s.pend := rfl
@[simp] theorem respond_dp (x : Response) (s : State) : (respond x s).dp = s.dp := rfl
@[simp] theorem respond_inputs (x : Response) (s : State) : (respond x s).inputs = s.inputs := rfl
@[simp] theorem respond_resp (x : Response) (s : State) : (respond x s).resp = x := rfl
@[simp] theorem respond_draws (x : Response) (s : State) : (respond x s).draws = s.draws := rfl
@[simp] theorem respond_busy (x : Response) (s : State) : (respond x s).busy = s.busy := rfl

/-! ### takeInput -/

@[simp] theorem takeInput_ieDone (s : State) : (takeInput s).ieDone = s.ieDone := rfl
@[simp] theorem takeInput_ieErr (s : State) : (takeInput s).ieErr = s.ieErr := rfl
@[simp] theorem takeInput_done (s : State) : (takeInput s).done = s.done := rfl
@[simp] theorem takeInput_skv (s : State) : (takeInput s).skv = s.skv := rfl
@[simp] theorem takeInput_errv (s : State) : (takeInput s).errv = s.errv := rfl
@[simp] theorem takeInput_err (s : State) : (takeInput s).err = s.err := rfl
@[simp] theorem takeInput_curW (s : State) : (takeInput s).curW = s.curW := rfl
@[simp] theorem takeInput_curR (s : State) : (takeInput s).curR = s.curR := rfl
@[simp] theorem takeInput_skidx (s : State) : (takeInput s).skidx = s.skidx := rfl
@[simp] theorem takeInput_blk (s : State) : (takeInput s).blk = s.blk := rfl
@[simp] theorem takeInput_key (s : State) : (takeInput s).key = s.key := rfl
@[simp] theorem takeInput_sub (s : State) : (takeInput s).sub = s.sub := rfl
@[simp] theorem takeInput_pend (s : State) : (takeInput s).pend = s.pend := rfl
@[simp] theorem takeInput_dp (s : State) : (takeInput s).dp = s.dp := rfl
@[simp] theorem takeInput_inputs (s : State) : (takeInput s).inputs = s.inputs.tail := rfl
@[simp] theorem takeInput_resp (s : State) : (takeInput s).resp = s.resp := rfl
@[simp] theorem takeInput_draws (s : State) : (takeInput s).draws = s.draws := rfl
@[simp] theorem takeInput_busy (s : State) : (takeInput s).busy = s.busy := rfl

/-! ### useDraw -/

@[simp] theorem useDraw_ieDone (s : State) : (useDraw s).ieDone = s.ieDone := rfl
@[simp] theorem useDraw_ieErr (s : State) : (useDraw s).ieErr = s.ieErr := rfl
@[simp] theorem useDraw_done (s : State) : (useDraw s).done = s.done := rfl
@[simp] theorem useDraw_skv (s : State) : (useDraw s).skv = s.skv := rfl
@[simp] theorem useDraw_errv (s : State) : (useDraw s).errv = s.errv := rfl
@[simp] theorem useDraw_err (s : State) : (useDraw s).err = s.err := rfl
@[simp] theorem useDraw_curW (s : State) : (useDraw s).curW = s.curW := rfl
@[simp] theorem useDraw_curR (s : State) : (useDraw s).curR = s.curR := rfl
@[simp] theorem useDraw_skidx (s : State) : (useDraw s).skidx = s.skidx := rfl
@[simp] theorem useDraw_blk (s : State) : (useDraw s).blk = s.blk := rfl
@[simp] theorem useDraw_key (s : State) : (useDraw s).key = s.key := rfl
@[simp] theorem useDraw_sub (s : State) : (useDraw s).sub = s.sub := rfl
@[simp] theorem useDraw_pend (s : State) : (useDraw s).pend = s.pend := rfl
@[simp] theorem useDraw_dp (s : State) : (useDraw s).dp = s.dp := rfl
@[simp] theorem useDraw_inputs (s : State) : (useDraw s).inputs = s.inputs := rfl
@[simp] theorem useDraw_resp (s : State) : (useDraw s).resp = s.resp := rfl
@[simp] theorem useDraw_draws (s : State) : (useDraw s).draws = s.draws + 1 := rfl
@[simp] theorem useDraw_busy (s : State) : (useDraw s).busy = s.busy := rfl

/-! ### setData -/

@[simp] theorem setData_ieDone (k : Fin 4) (v : Reg32) (s : State) : (setData k v s).ieDone = s.ieDone := rfl
@[simp] theorem setData_ieErr (k : Fin 4) (v : Reg32) (s : State) : (setData k v s).ieErr = s.ieErr := rfl
@[simp] theorem setData_done (k : Fin 4) (v : Reg32) (s : State) : (setData k v s).done = s.done := rfl
@[simp] theorem setData_skv (k : Fin 4) (v : Reg32) (s : State) : (setData k v s).skv = s.skv := rfl
@[simp] theorem setData_errv (k : Fin 4) (v : Reg32) (s : State) : (setData k v s).errv = s.errv := rfl
@[simp] theorem setData_err (k : Fin 4) (v : Reg32) (s : State) : (setData k v s).err = s.err := rfl
@[simp] theorem setData_curW (k : Fin 4) (v : Reg32) (s : State) : (setData k v s).curW = s.curW := rfl
@[simp] theorem setData_curR (k : Fin 4) (v : Reg32) (s : State) : (setData k v s).curR = s.curR := rfl
@[simp] theorem setData_skidx (k : Fin 4) (v : Reg32) (s : State) : (setData k v s).skidx = s.skidx := rfl
@[simp] theorem setData_blk (k : Fin 4) (v : Reg32) (s : State) : (setData k v s).blk = setSlice s.blk (32 * k.val) v := rfl
@[simp] theorem setData_key (k : Fin 4) (v : Reg32) (s : State) : (setData k v s).key = s.key := rfl
@[simp] theorem setData_sub (k : Fin 4) (v : Reg32) (s : State) : (setData k v s).sub = s.sub := rfl
@[simp] theorem setData_pend (k : Fin 4) (v : Reg32) (s : State) : (setData k v s).pend = s.pend := rfl
@[simp] theorem setData_dp (k : Fin 4) (v : Reg32) (s : State) : (setData k v s).dp = s.dp := rfl
@[simp] theorem setData_inputs (k : Fin 4) (v : Reg32) (s : State) : (setData k v s).inputs = s.inputs := rfl
@[simp] theorem setData_resp (k : Fin 4) (v : Reg32) (s : State) : (setData k v s).resp = s.resp := rfl
@[simp] theorem setData_draws (k : Fin 4) (v : Reg32) (s : State) : (setData k v s).draws = s.draws := rfl
@[simp] theorem setData_busy (k : Fin 4) (v : Reg32) (s : State) : (setData k v s).busy = s.busy := rfl

/-! ### setKey -/

@[simp] theorem setKey_ieDone (k : Fin 64) (v : Reg32) (s : State) : (setKey k v s).ieDone = s.ieDone := by simp only [setKey]
@[simp] theorem setKey_ieErr (k : Fin 64) (v : Reg32) (s : State) : (setKey k v s).ieErr = s.ieErr := by simp only [setKey]
@[simp] theorem setKey_done (k : Fin 64) (v : Reg32) (s : State) : (setKey k v s).done = s.done := by simp only [setKey]
@[simp] theorem setKey_skv (k : Fin 64) (v : Reg32) (s : State) : (setKey k v s).skv = s.skv := by simp only [setKey]
@[simp] theorem setKey_errv (k : Fin 64) (v : Reg32) (s : State) : (setKey k v s).errv = s.errv := by simp only [setKey]
@[simp] theorem setKey_err (k : Fin 64) (v : Reg32) (s : State) : (setKey k v s).err = s.err := by simp only [setKey]
@[simp] theorem setKey_curW (k : Fin 64) (v : Reg32) (s : State) : (setKey k v s).curW = s.curW := by simp only [setKey]
@[simp] theorem setKey_curR (k : Fin 64) (v : Reg32) (s : State) : (setKey k v s).curR = s.curR := by simp only [setKey]
@[simp] theorem setKey_skidx (k : Fin 64) (v : Reg32) (s : State) : (setKey k v s).skidx = s.skidx := by simp only [setKey]
@[simp] theorem setKey_blk (k : Fin 64) (v : Reg32) (s : State) : (setKey k v s).blk = s.blk := by simp only [setKey]
@[simp] theorem setKey_sub (k : Fin 64) (v : Reg32) (s : State) : (setKey k v s).sub = s.sub := by simp only [setKey]
@[simp] theorem setKey_pend (k : Fin 64) (v : Reg32) (s : State) : (setKey k v s).pend = s.pend := by simp only [setKey]
@[simp] theorem setKey_dp (k : Fin 64) (v : Reg32) (s : State) : (setKey k v s).dp = s.dp := by simp only [setKey]
@[simp] theorem setKey_inputs (k : Fin 64) (v : Reg32) (s : State) : (setKey k v s).inputs = s.inputs := by simp only [setKey]
@[simp] theorem setKey_resp (k : Fin 64) (v : Reg32) (s : State) : (setKey k v s).resp = s.resp := by simp only [setKey]
@[simp] theorem setKey_draws (k : Fin 64) (v : Reg32) (s : State) : (setKey k v s).draws = s.draws := by simp only [setKey]
@[simp] theorem setKey_busy (k : Fin 64) (v : Reg32) (s : State) : (setKey k v s).busy = s.busy := by simp [State.busy]

/-! ### raiseCmdError -/

@[simp] theorem raiseCmdError_ieDone (c : ErrCode) (s : State) : (raiseCmdError c s).ieDone = s.ieDone := by
  unfold raiseCmdError; split <;> rfl
@[simp] theorem raiseCmdError_ieErr (c : ErrCode) (s : State) : (raiseCmdError c s).ieErr = s.ieErr := by
  unfold raiseCmdError; split <;> rfl
@[simp] theorem raiseCmdError_done (c : ErrCode) (s : State) : (raiseCmdError c s).done = s.done := by
  unfold raiseCmdError; split <;> rfl
@[simp] theorem raiseCmdError_skv (c : ErrCode) (s : State) : (raiseCmdError c s).skv = s.skv := by
  unfold raiseCmdError; split <;> rfl
@[simp] theorem raiseCmdError_errv (c : ErrCode) (s : State) : (raiseCmdError c s).errv = true := by
  unfold raiseCmdError; split <;> simp_all
@[simp] theorem raiseCmdError_err (c : ErrCode) (s : State) :
    (raiseCmdError c s).err = if s.errv then s.err else c := by
  unfold raiseCmdError; split <;> rfl
@[simp] theorem raiseCmdError_curW (c : ErrCode) (s : State) : (raiseCmdError c s).curW = s.curW := by
  unfold raiseCmdError; split <;> rfl
@[simp] theorem raiseCmdError_curR (c : ErrCode) (s : State) : (raiseCmdError c s).curR = s.curR := by
  unfold raiseCmdError; split <;> rfl
@[simp] theorem raiseCmdError_skidx (c : ErrCode) (s : State) : (raiseCmdError c s).skidx = s.skidx := by
  unfold raiseCmdError; split <;> rfl
@[simp] theorem raiseCmdError_blk (c : ErrCode) (s : State) : (raiseCmdError c s).blk = s.blk := by
  unfold raiseCmdError; split <;> rfl
@[simp] theorem raiseCmdError_key (c : ErrCode) (s : State) : (raiseCmdError c s).key = s.key := by
  unfold raiseCmdError; split <;> rfl
@[simp] theorem raiseCmdError_sub (c : ErrCode) (s : State) : (raiseCmdError c s).sub = s.sub := by
  unfold raiseCmdError; split <;> rfl
@[simp] theorem raiseCmdError_pend (c : ErrCode) (s : State) : (raiseCmdError c s).pend = s.pend := by
  unfold raiseCmdError; split <;> rfl
@[simp] theorem raiseCmdError_dp (c : ErrCode) (s : State) : (raiseCmdError c s).dp = s.dp := by
  unfold raiseCmdError; split <;> rfl
@[simp] theorem raiseCmdError_inputs (c : ErrCode) (s : State) : (raiseCmdError c s).inputs = s.inputs := by
  unfold raiseCmdError; split <;> rfl
@[simp] theorem raiseCmdError_resp (c : ErrCode) (s : State) : (raiseCmdError c s).resp = s.resp := by
  unfold raiseCmdError; split <;> rfl
@[simp] theorem raiseCmdError_draws (c : ErrCode) (s : State) : (raiseCmdError c s).draws = s.draws := by
  unfold raiseCmdError; split <;> rfl
@[simp] theorem raiseCmdError_busy (c : ErrCode) (s : State) : (raiseCmdError c s).busy = s.busy := by
  simp [State.busy]

/-! ### rejectExpand -/

@[simp] theorem rejectExpand_ieDone (c : ErrCode) (s : State) : (rejectExpand c s).ieDone = s.ieDone := by
  simp [rejectExpand]
@[simp] theorem rejectExpand_ieErr (c : ErrCode) (s : State) : (rejectExpand c s).ieErr = s.ieErr := by
  simp [rejectExpand]
@[simp] theorem rejectExpand_done (c : ErrCode) (s : State) : (rejectExpand c s).done = s.done := by
  simp [rejectExpand]
@[simp] theorem rejectExpand_skv (c : ErrCode) (s : State) : (rejectExpand c s).skv = false := by
  simp [rejectExpand]
@[simp] theorem rejectExpand_errv (c : ErrCode) (s : State) : (rejectExpand c s).errv = true := by
  simp [rejectExpand]
@[simp] theorem rejectExpand_err (c : ErrCode) (s : State) : (rejectExpand c s).err = if s.errv then s.err else c := by
  simp [rejectExpand]; rfl
@[simp] theorem rejectExpand_curW (c : ErrCode) (s : State) : (rejectExpand c s).curW = .w16 := by
  simp [rejectExpand]
@[simp] theorem rejectExpand_curR (c : ErrCode) (s : State) : (rejectExpand c s).curR = 0 := by
  simp [rejectExpand]
@[simp] theorem rejectExpand_skidx (c : ErrCode) (s : State) : (rejectExpand c s).skidx = s.skidx := by
  simp [rejectExpand]
@[simp] theorem rejectExpand_blk (c : ErrCode) (s : State) : (rejectExpand c s).blk = s.blk := by
  simp [rejectExpand]
@[simp] theorem rejectExpand_key (c : ErrCode) (s : State) : (rejectExpand c s).key = s.key := by
  simp [rejectExpand]
@[simp] theorem rejectExpand_sub (c : ErrCode) (s : State) : (rejectExpand c s).sub = s.sub := by
  simp [rejectExpand]
@[simp] theorem rejectExpand_pend (c : ErrCode) (s : State) : (rejectExpand c s).pend = s.pend := by
  simp [rejectExpand]
@[simp] theorem rejectExpand_dp (c : ErrCode) (s : State) : (rejectExpand c s).dp = s.dp := by
  simp [rejectExpand]
@[simp] theorem rejectExpand_inputs (c : ErrCode) (s : State) : (rejectExpand c s).inputs = s.inputs := by
  simp [rejectExpand]
@[simp] theorem rejectExpand_resp (c : ErrCode) (s : State) : (rejectExpand c s).resp = s.resp := by
  simp [rejectExpand]
@[simp] theorem rejectExpand_draws (c : ErrCode) (s : State) : (rejectExpand c s).draws = s.draws := by
  simp [rejectExpand]
@[simp] theorem rejectExpand_busy (c : ErrCode) (s : State) : (rejectExpand c s).busy = s.busy := by
  simp [State.busy]

/-! ### writeStatus -/

@[simp] theorem writeStatus_ieDone (v : Reg32) (s : State) : (writeStatus v s).ieDone = s.ieDone := by
  unfold writeStatus; cases v.getLsbD 1 <;> cases v.getLsbD 3 <;> simp
@[simp] theorem writeStatus_ieErr (v : Reg32) (s : State) : (writeStatus v s).ieErr = s.ieErr := by
  unfold writeStatus; cases v.getLsbD 1 <;> cases v.getLsbD 3 <;> simp
@[simp] theorem writeStatus_done (v : Reg32) (s : State) : (writeStatus v s).done = (s.done && !v.getLsbD 1) := by
  unfold writeStatus; cases v.getLsbD 1 <;> cases v.getLsbD 3 <;> simp
@[simp] theorem writeStatus_skv (v : Reg32) (s : State) : (writeStatus v s).skv = s.skv := by
  unfold writeStatus; cases v.getLsbD 1 <;> cases v.getLsbD 3 <;> simp
@[simp] theorem writeStatus_errv (v : Reg32) (s : State) : (writeStatus v s).errv = (s.errv && !v.getLsbD 3) := by
  unfold writeStatus; cases v.getLsbD 1 <;> cases v.getLsbD 3 <;> simp
@[simp] theorem writeStatus_err (v : Reg32) (s : State) : (writeStatus v s).err = if v.getLsbD 3 then .none else s.err := by
  unfold writeStatus; cases v.getLsbD 1 <;> cases v.getLsbD 3 <;> simp
@[simp] theorem writeStatus_curW (v : Reg32) (s : State) : (writeStatus v s).curW = s.curW := by
  unfold writeStatus; cases v.getLsbD 1 <;> cases v.getLsbD 3 <;> simp
@[simp] theorem writeStatus_curR (v : Reg32) (s : State) : (writeStatus v s).curR = s.curR := by
  unfold writeStatus; cases v.getLsbD 1 <;> cases v.getLsbD 3 <;> simp
@[simp] theorem writeStatus_skidx (v : Reg32) (s : State) : (writeStatus v s).skidx = s.skidx := by
  unfold writeStatus; cases v.getLsbD 1 <;> cases v.getLsbD 3 <;> simp
@[simp] theorem writeStatus_blk (v : Reg32) (s : State) : (writeStatus v s).blk = s.blk := by
  unfold writeStatus; cases v.getLsbD 1 <;> cases v.getLsbD 3 <;> simp
@[simp] theorem writeStatus_key (v : Reg32) (s : State) : (writeStatus v s).key = s.key := by
  unfold writeStatus; cases v.getLsbD 1 <;> cases v.getLsbD 3 <;> simp
@[simp] theorem writeStatus_sub (v : Reg32) (s : State) : (writeStatus v s).sub = s.sub := by
  unfold writeStatus; cases v.getLsbD 1 <;> cases v.getLsbD 3 <;> simp
@[simp] theorem writeStatus_pend (v : Reg32) (s : State) : (writeStatus v s).pend = s.pend := by
  unfold writeStatus; cases v.getLsbD 1 <;> cases v.getLsbD 3 <;> simp
@[simp] theorem writeStatus_dp (v : Reg32) (s : State) : (writeStatus v s).dp = s.dp := by
  unfold writeStatus; cases v.getLsbD 1 <;> cases v.getLsbD 3 <;> simp
@[simp] theorem writeStatus_inputs (v : Reg32) (s : State) : (writeStatus v s).inputs = s.inputs := by
  unfold writeStatus; cases v.getLsbD 1 <;> cases v.getLsbD 3 <;> simp
@[simp] theorem writeStatus_resp (v : Reg32) (s : State) : (writeStatus v s).resp = s.resp := by
  unfold writeStatus; cases v.getLsbD 1 <;> cases v.getLsbD 3 <;> simp
@[simp] theorem writeStatus_draws (v : Reg32) (s : State) : (writeStatus v s).draws = s.draws := by
  unfold writeStatus; cases v.getLsbD 1 <;> cases v.getLsbD 3 <;> simp
@[simp] theorem writeStatus_busy (v : Reg32) (s : State) : (writeStatus v s).busy = s.busy := by
  simp [State.busy]

/-! ### BUSY -/

theorem busy_iff (s : State) : s.busy = true ↔ ∃ p, s.pend = some p := by
  simp [State.busy, Option.isSome_iff_exists]

theorem not_busy_iff (s : State) : s.busy = false ↔ s.pend = none := by
  simp [State.busy]

/-- Two states are equal when all their fields are. -/
theorem State.ext_fields {s t : State}
    (h_ieDone : s.ieDone = t.ieDone)
    (h_ieErr : s.ieErr = t.ieErr)
    (h_done : s.done = t.done)
    (h_skv : s.skv = t.skv)
    (h_errv : s.errv = t.errv)
    (h_err : s.err = t.err)
    (h_curW : s.curW = t.curW)
    (h_curR : s.curR = t.curR)
    (h_skidx : s.skidx = t.skidx)
    (h_blk : s.blk = t.blk)
    (h_key : s.key = t.key)
    (h_sub : s.sub = t.sub)
    (h_pend : s.pend = t.pend)
    (h_dp : s.dp = t.dp)
    (h_inputs : s.inputs = t.inputs)
    (h_resp : s.resp = t.resp)
    (h_draws : s.draws = t.draws) : s = t := by
  cases s; cases t; simp_all

end Sys2Proof.Machine
end

