-- ==== Sys2Proof/Laws/Ops.lean ====
section
/-! SUPPORT. What each shared operation does, once: bit slices, key bytes, the stored table, recording an error, issuing and
completing a command. -/

namespace Sys2Proof.Machine

/-! ### Bit slices -/

/-- Every bit of setSlice: the new value's inside the slice, the old one outside. -/
theorem getLsbD_setSlice {n w : Nat} (x : BitVec n) (lo : Nat) (v : BitVec w) (i : Nat) (hi : i < n) :
    (setSlice x lo v).getLsbD i = if lo ≤ i ∧ i < lo + w then v.getLsbD (i - lo) else x.getLsbD i := by
  simp only [setSlice, BitVec.getLsbD_or, BitVec.getLsbD_and, BitVec.getLsbD_not, BitVec.getLsbD_shiftLeft,
    BitVec.getLsbD_setWidth, BitVec.getLsbD_allOnes]
  by_cases h1 : lo ≤ i
  · by_cases h2 : i < lo + w
    · have h3 : i - lo < w := by omega
      have h4 : i - lo < n := by omega
      have h5 : ¬ i < lo := by omega
      simp [h1, h2, h3, h4, h5, hi]
    · have h3 : ¬ i - lo < w := by omega
      have h5 : ¬ i < lo := by omega
      simp [h2, h3, h5, hi, BitVec.getLsbD_of_ge v (i - lo) (by omega)]
  · have h5 : i < lo := by omega
    simp [h1, h5, hi]

/-- Reading the slice just written gives the value written. -/
theorem extract_setSlice_same {n w : Nat} (x : BitVec n) (lo : Nat) (v : BitVec w) (h : lo + w ≤ n) :
    (setSlice x lo v).extractLsb' lo w = v := by
  apply BitVec.eq_of_getLsbD_eq
  intro i hi
  rw [BitVec.getLsbD_extractLsb', getLsbD_setSlice _ _ _ _ (by omega)]
  simp [hi]

/-- Reading a slice apart from the one written gives what it held. -/
theorem extract_setSlice_apart {n w : Nat} (x : BitVec n) (lo : Nat) (v : BitVec w) (lo' w' : Nat) (hn : lo' + w' ≤ n)
    (h : lo' + w' ≤ lo ∨ lo + w ≤ lo') :
    (setSlice x lo v).extractLsb' lo' w' = x.extractLsb' lo' w' := by
  apply BitVec.eq_of_getLsbD_eq
  intro i hi
  rw [BitVec.getLsbD_extractLsb', BitVec.getLsbD_extractLsb', getLsbD_setSlice _ _ _ _ (by omega)]
  have : ¬ (lo ≤ lo' + i ∧ lo' + i < lo + w) := by omega
  simp [hi, this]

/-- The words of the block just written are read back. -/
theorem blockA_setBlock (W : Width) (blk : BitVec 128) (ab : Word W × Word W) : blockA W (setBlock W blk ab) = ab.1 := by
  cases W <;>
    · unfold blockA setBlock
      rw [extract_setSlice_apart _ _ _ _ _ (by decide) (by decide), extract_setSlice_same _ _ _ (by decide)]

theorem blockB_setBlock (W : Width) (blk : BitVec 128) (ab : Word W × Word W) : blockB W (setBlock W blk ab) = ab.2 := by
  cases W <;> exact extract_setSlice_same _ _ _ (by decide)

/-- BLK's bits above the block are kept (10_state.md R40). -/
theorem setBlock_above (W : Width) (blk : BitVec 128) (ab : Word W × Word W) (i : Nat) (h : 2 * W.bits ≤ i) (hi : i < 128) :
    (setBlock W blk ab).getLsbD i = blk.getLsbD i := by
  unfold setBlock
  rw [getLsbD_setSlice _ _ _ _ hi, getLsbD_setSlice _ _ _ _ hi]
  have h1 : ¬ (W.bits ≤ i ∧ i < W.bits + W.bits) := by omega
  have h2 : ¬ (0 ≤ i ∧ i < 0 + W.bits) := by omega
  rw [if_neg h1, if_neg h2]

/-! ### K -/

/-- The bytes after a write to KEYk: the lanes of the value in K[4k]..K[4k+3], the others as before. -/
theorem setKey_byte (k : Fin 64) (v : Reg32) (s : State) (n : Nat) (hn : n < 256) :
    (setKey k v s).key[n] = if n / 4 = k.val then byteLane v (n % 4) else s.key[n] := by
  simp only [setKey, Vector.getElem_ofFn]
  rfl

/-! ### S -/

/-- Entry n of S after a table is stored: the table's word zero-extended, or 0 past the table. -/
theorem storeTable_get {W : Width} (table : List (Word W)) (n : Nat) (hn : n < 512) :
    (storeTable table)[n] = (table.getD n 0).setWidth 64 := by
  simp only [storeTable, Vector.getElem_ofFn]

theorem subAt_of_lt (s : State) (n : Nat) (hn : n < 512) : s.subAt n = s.sub[n] := by
  simp [State.subAt, hn]

/-- DECRYPT reads back exactly the table that EXPAND stored. -/
theorem subkeys_storeTable {W : Width} (table : List (Word W)) (s : State) (h : s.sub = storeTable table) (n : Nat)
    (hn : n < 512) : s.subkeys W n = table.getD n 0 := by
  unfold State.subkeys
  rw [subAt_of_lt s n hn]
  simp only [h]
  rw [storeTable_get table n hn]
  apply BitVec.eq_of_getLsbD_eq
  intro i hi
  have : i < 64 := by cases W <;> simp [Width.bits] at hi <;> omega
  simp [hi, this]

/-! ### The length of the table -/

@[simp] theorem length_initFrom (W : Width) (n : Nat) (x : Word W) : (initFrom W n x).length = n := by
  induction n generalizing x with
  | zero => rfl
  | succ n ih => simp [initFrom, ih]

@[simp] theorem length_initS (W : Width) (r : Nat) : (initS W r).length = 2 * (r + 1) := by
  simp [initS, tableSize]

@[simp] theorem mixStep_length_s {W : Width} (m : MixVars W) : (mixStep m).s.length = m.s.length := by simp [mixStep]

@[simp] theorem mixStep_length_l {W : Width} (m : MixVars W) : (mixStep m).l.length = m.l.length := by simp [mixStep]

theorem mixIter_length_s {W : Width} (n : Nat) (m : MixVars W) : (mixIter n m).s.length = m.s.length := by
  induction n generalizing m with
  | zero => rfl
  | succ n ih => rw [mixIter, ih, mixStep_length_s]

/-! ### Errors -/

/-- A later error changes nothing. -/
theorem raiseCmdError_of_errv (c : ErrCode) {s : State} (h : s.errv = true) : raiseCmdError c s = s := by
  simp [raiseCmdError, h]

/-- The first error is recorded. -/
theorem raiseCmdError_of_not_errv (c : ErrCode) {s : State} (h : s.errv = false) :
    raiseCmdError c s = { s with errv := true, err := c } := by
  simp [raiseCmdError, h]

end Sys2Proof.Machine
end

