-- ==== Sys2Proof/Laws/Decrypt.lean ====
section
/-! SUPPORT. The decryption engine: which subkeys it reads, and what DECRYPT's completion leaves in BLK. -/

namespace Sys2Proof.Machine

/-- The rounds read the subkeys 2..2r+1 only. -/
theorem decryptRounds_congr {W : Width} (S S' : Nat → Word W) (r : Nat) (ab : Word W × Word W)
    (h : ∀ n, n < 2 * (r + 1) → S n = S' n) : decryptRounds S r ab = decryptRounds S' r ab := by
  induction r generalizing ab with
  | zero => rfl
  | succ r ih =>
    simp only [decryptRounds]
    have : decryptRound S (r+1) ab = decryptRound S' (r+1) ab := by
      unfold decryptRound; rw [h (2*(r+1)) (by omega), h (2*(r+1)+1) (by omega)]
    rw [this, ih]
    intro n hn; exact h n (by omega)

/-- DecryptBlock reads the subkeys 0..2r+1 only. -/
theorem decryptBlock_congr {W : Width} (S S' : Nat → Word W) (r : Nat) (ab : Word W × Word W)
    (h : ∀ n, n < 2 * (r + 1) → S n = S' n) : decryptBlock S r ab = decryptBlock S' r ab := by
  unfold decryptBlock; rw [decryptRounds_congr S S' r ab h, h 0 (by omega), h 1 (by omega)]

/-- What DECRYPT's completion leaves in BLK, for the width in force under another name. -/
theorem decryptEffect_blk_of_width (s : State) (W : Width) (h : s.curW = W) :
    (decryptEffect s).blk =
      setBlock W s.blk (decryptBlock (s.subkeys W) s.curR.toNat (blockA W s.blk, blockB W s.blk)) := by
  subst h
  rfl

end Sys2Proof.Machine
end

