-- ==== Sys2Proof/Laws/Inv.lean ====
section
/-! SUPPORT. The invariant and a completion's effect: what they depend on. -/

namespace Sys2Proof.Machine

/-- The invariant is kept by a change of the other fields, of the error report to a consistent one, and of DONE to 0. -/
theorem State.Inv.transfer {s t : State} (hi : s.Inv)
    (herr : (t.errv = false → t.err = .none) ∧ (t.errv = true → t.err ≠ .none)) (hskv : t.skv = s.skv)
    (hw : t.curW = s.curW) (hr : t.curR = s.curR) (hsub : t.sub = s.sub) (hpend : t.pend = s.pend)
    (hdone : t.done = s.done ∨ t.done = false) : t.Inv := by
  refine ⟨herr.1, herr.2, ?_, ?_, ?_, ?_, ?_⟩
  · rw [hskv, hw, hr]
    exact hi.no_table
  · rw [hskv, hr]
    unfold State.tableHeld
    rw [hw, hr, hsub]
    exact hi.table
  · rw [hskv, hpend]
    exact hi.pend_expand
  · rw [hskv, hpend]
    exact hi.pend_decrypt
  · intro hb
    rcases hdone with h | h <;> rw [h]
    apply hi.busy_not_done
    simpa [State.busy, hpend] using hb

/-- A completion's effect is the same from two states with the same K, S, BLK and table report. -/
theorem State.completedAs_congr {s t u : State} {p : Pending} (hkey : t.key = s.key) (hsub : t.sub = s.sub)
    (hblk : t.blk = s.blk) (hskv : t.skv = s.skv) (hw : t.curW = s.curW) (hr : t.curR = s.curR) (h : t.completedAs p u) :
    s.completedAs p u := by
  cases s
  cases t
  simp only at hkey hsub hblk hskv hw hr
  subst hkey hsub hblk hskv hw hr
  cases p <;> exact h

end Sys2Proof.Machine
end

