-- ==== Sys2Proof/Laws/Step.lean ====
section
/-! SUPPORT. What one step can do, once: the cases of step, of serve, of a register write and of the issue of a command. -/

namespace Sys2Proof.Machine

/-! ### Issue -/

/-- What issuing a command can do: be rejected with one error, the table dropped or not, be accepted, or be NOP. -/
theorem exec_cases (i : Instr) (s : State) :
    ∃ t, exec i s = .next t ∧
      ((∃ c, c ≠ ErrCode.none ∧ t = raiseCmdError c s) ∨
       (∃ c wsel r b, i = .expand wsel r b ∧ s.busy = false ∧ c ≠ ErrCode.none ∧ t = rejectExpand c s) ∨
       (i = .nop ∧ s.busy = false ∧ t = s) ∨
       (i = .keyclr ∧ s.busy = false ∧ t = accept .keyclr s) ∨
       (∃ wsel r b W, i = .expand wsel r b ∧ decodeW wsel = some W ∧ r ≠ 0 ∧ s.busy = false ∧
          t = killTable (accept (.expand W r b) s)) ∨
       (i = .decrypt ∧ s.busy = false ∧ s.skv = true ∧ t = accept .decrypt s) ∨
       (i = .clear ∧ s.busy = false ∧ t = accept .clear s)) := by
  by_cases hb : s.busy = true
  · refine ⟨raiseCmdError .busy s, ?_, .inl ⟨.busy, by decide, rfl⟩⟩
    cases i <;> simp [exec, execNop, execKeyclr, execExpand, execDecrypt, execClear, hb]
  · have hb : s.busy = false := by simpa using hb
    cases i with
    | nop => exact ⟨s, by simp [exec, execNop, hb], by simp [hb]⟩
    | keyclr => exact ⟨accept .keyclr s, by simp [exec, execKeyclr, hb], by simp [hb]⟩
    | expand wsel r b =>
      cases hW : decodeW wsel with
      | none => exact ⟨rejectExpand .badW s, by simp [exec, execExpand, hb, hW], .inr (.inl ⟨.badW, _, _, _, rfl, hb, by decide, rfl⟩)⟩
      | some W =>
        by_cases hr : r = 0
        · exact ⟨rejectExpand .badR s, by simp [exec, execExpand, hb, hW, hr],
            .inr (.inl ⟨.badR, _, _, _, rfl, hb, by decide, rfl⟩)⟩
        · exact ⟨killTable (accept (.expand W r b) s), by simp only [exec, execExpand, hb, hW, if_neg hr]; simp,
            .inr (.inr (.inr (.inr (.inl ⟨_, _, _, W, rfl, hW, hr, hb, rfl⟩))))⟩
    | decrypt =>
      cases hk : s.skv with
      | false => exact ⟨raiseCmdError .noKey s, by simp [exec, execDecrypt, hb, hk], .inl ⟨.noKey, by decide, rfl⟩⟩
      | true => exact ⟨accept .decrypt s, by simp [exec, execDecrypt, hb, hk], by simp [hb]⟩
    | clear => exact ⟨accept .clear s, by simp [exec, execClear, hb], by simp [hb]⟩

/-- Issuing a command always answers a next state. -/
theorem exec_next (i : Instr) (s : State) : ∃ t, exec i s = .next t := by
  obtain ⟨t, h, -⟩ := exec_cases i s
  exact ⟨t, h⟩

/-- Presenting a word always answers a next state. -/
theorem presentCommand_next (v : Reg32) (s : State) : ∃ t, presentCommand v s = .next t := by
  unfold presentCommand
  cases decodeWord v with
  | command i => exact exec_next i s
  | illegalOp => exact ⟨_, rfl⟩
  | reservedBits => exact ⟨_, rfl⟩
  | reservedBitsExpand => exact ⟨_, rfl⟩

/-- A register write always answers a next state. -/
theorem writeReg_next (r : RegName) (v : Reg32) (s : State) : ∃ t, writeReg r v s = .next t := by
  cases r with
  | cmd => exact presentCommand_next v s
  | id => exact ⟨_, rfl⟩
  | cap => exact ⟨_, rfl⟩
  | ctrl => exact ⟨_, rfl⟩
  | status => exact ⟨_, rfl⟩
  | skidx => exact ⟨_, rfl⟩
  | skdataLo => exact ⟨_, rfl⟩
  | skdataHi => exact ⟨_, rfl⟩
  | data k => exact ⟨_, rfl⟩
  | key k => exact ⟨_, rfl⟩
  | reserved => exact ⟨_, rfl⟩

/-! ### A step -/

theorem serve_port (off : BitVec 12) (bytes : Nat) (kind : AccessKind) (s : State) :
    serve (.port off bytes kind) s = portAccess off bytes kind s := rfl

theorem serve_engine (s : State) : serve .engine s = .next (engineStep s) := rfl

theorem serve_reset (s : State) : serve .reset s = .next (resetStep s) := rfl

theorem serve_bus (addr bytes : Nat) (kind : AccessKind) (s : State) :
    serve (.bus addr bytes kind) s =
      match windowOffset addr with
      | some off => portAccess off bytes kind s
      | none => .next s := rfl

/-- With something waiting, a step serves the first of it. -/
theorem step_cons {s : State} {e : Input} {rest : List Input} (h : s.inputs = e :: rest) : step s = serve e (takeInput s) := by
  unfold step; rw [h]

/-- With nothing waiting, a step is the engine's turn. -/
theorem step_nil {s : State} (h : s.inputs = []) : step s = .next (engineStep s) := by
  unfold step; rw [h]

/-- What a port access does when it is legal, and that it faults when it is not. -/
theorem portAccess_legal {off : BitVec 12} {bytes : Nat} (h : accessLegal off bytes = true) (kind : AccessKind) (s : State) :
    portAccess off bytes kind s =
      match kind with
      | .read => .next (respond (.data (readReg (regAt off) s).1) (readReg (regAt off) s).2)
      | .write v => writeReg (regAt off) v (respond .written s) := by
  refine (if_pos h).trans ?_
  cases kind <;> rfl

theorem portAccess_illegal {off : BitVec 12} {bytes : Nat} (h : accessLegal off bytes = false) (kind : AccessKind) (s : State) :
    portAccess off bytes kind s = .fault (.busError off) := by
  simp [portAccess, h]

/-- What a step that answers a next state has done: served a read, served a write, taken the engine's turn, reset the block, or
let an access outside the window pass. -/
theorem step_cases {s t : State} (h : step s = .next t) :
    (∃ r, s.nextAccess = some (r, .read) ∧
      t = respond (.data (readReg r (takeInput s)).1) (readReg r (takeInput s)).2) ∨
    (∃ r v, s.nextAccess = some (r, .write v) ∧
      writeReg r v (respond .written (takeInput s)) = .next t) ∨
    (s.engineTurn = true ∧ t = engineStep (takeInput s)) ∨
    (s.resetNext = true ∧ t = resetStep (takeInput s)) ∨
    (s.nextAccess = none ∧ t = takeInput s) := by
  have access : ∀ (off : BitVec 12) (bytes : Nat) (kind : AccessKind) (s' : State),
      portAccess off bytes kind s' = .next t → accessLegal off bytes = true ∧
        ((kind = .read ∧ t = respond (.data (readReg (regAt off) s').1) (readReg (regAt off) s').2) ∨
         (∃ v, kind = .write v ∧ writeReg (regAt off) v (respond .written s') = .next t)) := by
    intro off bytes kind s' hp
    cases hl : accessLegal off bytes with
    | false => rw [portAccess_illegal hl] at hp; cases hp
    | true =>
      rw [portAccess_legal hl] at hp
      refine ⟨rfl, ?_⟩
      cases kind with
      | read => exact .inl ⟨rfl, by simpa using hp.symm⟩
      | write v => exact .inr ⟨v, rfl, hp⟩
  cases hin : s.inputs with
  | nil =>
    rw [step_nil hin] at h
    have ht : t = engineStep s := by simpa using h.symm
    have hs : takeInput s = s := by cases s; simp_all [takeInput]
    exact .inr (.inr (.inl ⟨by simp [State.engineTurn, hin], by rw [hs, ht]⟩))
  | cons e rest =>
    rw [step_cons hin] at h
    cases e with
    | port off bytes kind =>
      rw [serve_port] at h
      obtain ⟨hl, ⟨rfl, ht⟩ | ⟨v, rfl, hw⟩⟩ := access _ _ _ _ h
      · exact .inl ⟨regAt off, by simp [State.nextAccess, hin, Input.target, hl], ht⟩
      · exact .inr (.inl ⟨regAt off, v, by simp [State.nextAccess, hin, Input.target, hl], hw⟩)
    | bus addr bytes kind =>
      rw [serve_bus] at h
      cases hw : windowOffset addr with
      | none =>
        rw [hw] at h
        exact .inr (.inr (.inr (.inr ⟨by simp [State.nextAccess, hin, Input.target, hw], by simpa using h.symm⟩)))
      | some off =>
        rw [hw] at h
        obtain ⟨hl, ⟨rfl, ht⟩ | ⟨v, rfl, hw'⟩⟩ := access _ _ _ _ h
        · exact .inl ⟨regAt off, by simp [State.nextAccess, hin, Input.target, hw, hl], ht⟩
        · exact .inr (.inl ⟨regAt off, v, by simp [State.nextAccess, hin, Input.target, hw, hl], hw'⟩)
    | engine => rw [serve_engine] at h; exact .inr (.inr (.inl ⟨by simp [State.engineTurn, hin], by simpa using h.symm⟩))
    | reset => rw [serve_reset] at h; exact .inr (.inr (.inr (.inl ⟨by simp [State.resetNext, hin], by simpa using h.symm⟩)))

/-- A legal access is served: a step whose next input is legal answers a next state. -/
theorem step_next_of_legal {s : State} (h : ∀ e, s.inputs.head? = some e → e.legal = true) : ∃ t, step s = .next t := by
  have access : ∀ (off : BitVec 12) (bytes : Nat) (kind : AccessKind) (s' : State), accessLegal off bytes = true →
      ∃ t, portAccess off bytes kind s' = .next t := by
    intro off bytes kind s' hl
    rw [portAccess_legal hl]
    cases kind with
    | read => exact ⟨_, rfl⟩
    | write v => exact writeReg_next _ _ _
  cases hin : s.inputs with
  | nil => exact ⟨_, step_nil hin⟩
  | cons e rest =>
    have hl := h e (by simp [hin])
    rw [step_cons hin]
    cases e with
    | port off bytes kind => exact access _ _ _ _ hl
    | bus addr bytes kind =>
      rw [serve_bus]
      simp only [Input.legal] at hl
      cases hw : windowOffset addr with
      | none => exact ⟨_, rfl⟩
      | some off => rw [hw] at hl; exact access _ _ _ _ hl
    | engine => exact ⟨_, rfl⟩
    | reset => exact ⟨_, rfl⟩

/-! ### Completion -/

/-- The engine's turn with nothing pending changes nothing. -/
theorem engineStep_idle {s : State} (h : s.pend = none) : engineStep s = s := by simp [engineStep, h]

/-- The engine's turn with a command pending is that command's completion. -/
theorem engineStep_pending {s : State} {p : Pending} (h : s.pend = some p) :
    engineStep s = finish (completionEffect p s) := by simp [engineStep, h]

end Sys2Proof.Machine
end

