-- ==== Sys2Proof/Laws/Issue.lean ====
section
/-! SUPPORT. What presenting a command word can do, once, in the terms that claims use. -/

namespace Sys2Proof.Machine

/-- Recording an error is one record update. -/
theorem raiseCmdError_eq (c : ErrCode) (s : State) : raiseCmdError c s = s.withError c := by
  unfold raiseCmdError State.withError
  cases h : s.errv <;> simp
  cases s; simp_all

/-- Rejecting an EXPAND is one record update. -/
theorem rejectExpand_eq (c : ErrCode) (s : State) :
    rejectExpand c s = State.withError { s with skv := false, curW := .w16, curR := 0 } c := by
  unfold rejectExpand
  rw [raiseCmdError_eq]
  rfl

/-- While a command is pending every command is rejected with BUSY. -/
theorem exec_busy (i : Instr) (s : State) (hb : s.busy = true) : exec i s = .next (s.withError .busy) := by
  cases i <;> simp [exec, execNop, execKeyclr, execExpand, execDecrypt, execClear, hb, raiseCmdError_eq]

theorem decodeW_eq_none (w : BitVec 2) : decodeW w = none ↔ w = 3 := by revert w; decide

/-- What the issue checks accept while no command is pending. -/
theorem accepts_of_idle {s : State} {v : Reg32} (h : s.nextAccess = some (.cmd, .write v)) (hb : s.busy = false) :
    s.accepts v =
      match decodeWord v with
      | .command .nop => none
      | .command .keyclr => some .keyclr
      | .command (.expand wsel r b) => if r = 0 then none else (decodeW wsel).map fun W => .expand W r b
      | .command .decrypt => if s.skv then some .decrypt else none
      | .command .clear => some .clear
      | .illegalOp => none
      | .reservedBits => none
      | .reservedBitsExpand => none :=
  if_pos ⟨h, hb⟩

theorem accepts_of_busy {s : State} {v : Reg32} (hb : s.busy = true) : s.accepts v = none := by
  unfold State.accepts
  rw [if_neg]
  simp [hb]

/-- What a step that writes CMD does to the state in which it finds the block. -/
theorem presentCommand_cases (v : Reg32) (s t : State) (hacc : s.nextAccess = some (.cmd, .write v))
    (h : presentCommand v s.afterWrite = .next t) :
    (s.busy = true ∧ t = raiseCmdError .busy s.afterWrite) ∨
    (s.busy = false ∧ s.accepts v = none ∧ fieldOp v ≠ 2#4 ∧
      (t = s.afterWrite ∨ ∃ c, c ≠ ErrCode.none ∧ t = raiseCmdError c s.afterWrite)) ∨
    (s.busy = false ∧ s.accepts v = none ∧ fieldOp v = 2#4 ∧
      ∃ c, c ≠ ErrCode.none ∧ t = rejectExpand c s.afterWrite) ∨
    (s.busy = false ∧ fieldOp v ≠ 2#4 ∧ ∃ p, s.accepts v = some p ∧ (∀ W r b, p ≠ .expand W r b) ∧
      (p = .decrypt → s.skv = true) ∧ t = accept p s.afterWrite) ∨
    (s.busy = false ∧ fieldOp v = 2#4 ∧ ∃ W r b, s.accepts v = some (.expand W r b) ∧ r ≠ 0 ∧
      t = killTable (accept (.expand W r b) s.afterWrite)) := by
  generalize hw : s.afterWrite = w at h ⊢
  have hwb : w.busy = s.busy := by rw [← hw]; rfl
  have hwk : w.skv = s.skv := by rw [← hw]; rfl
  by_cases hb : s.busy = true
  · left; refine ⟨hb, ?_⟩
    unfold presentCommand at h
    cases hd : decodeWord v with
    | command i =>
      rw [hd] at h
      rw [raiseCmdError_eq]
      have := exec_busy i w (by rw [hwb, hb])
      simp only [this] at h; exact (by simpa using h.symm)
    | _ => rw [hd] at h; simp [rejectWord, hwb, hb] at h; exact h.symm
  · have hb : s.busy = false := by simpa using hb
    have hae := accepts_of_idle hacc hb
    right
    rcases decodeWord_cases v with ⟨a, e⟩ | ⟨a0, a, e⟩ | ⟨a, b, e⟩ | ⟨a, a2, e⟩ |
        ⟨_, ⟨a, rfl, e⟩ | ⟨a, rfl, e⟩ | ⟨a, rfl, e⟩ | ⟨a, rfl, e⟩⟩ <;>
      (rw [e] at hae; unfold presentCommand at h; rw [e] at h)
    · left; simp [rejectWord, hwb, hb] at h
      refine ⟨hb, hae, ?_, .inr ⟨.illegalOp, by decide, h.symm⟩⟩
      intro h2; rw [h2] at a; simp at a
    · right; left; simp [rejectWord, hwb, hb] at h
      exact ⟨hb, hae, a0, .rsvdNz, by decide, h.symm⟩
    · simp only [exec, execExpand, hwb, hb] at h
      simp only at hae
      cases hW : decodeW (fieldWsel v) with
      | none =>
        right; left; simp [hW] at h hae
        exact ⟨hb, hae, a, .badW, by decide, h.symm⟩
      | some W =>
        by_cases hr : fieldR v = 0
        · right; left; rw [hW] at h hae; simp [hr] at h hae
          exact ⟨hb, hae, a, .badR, by decide, h.symm⟩
        · right; right; right; rw [hW] at h hae; simp only [if_neg hr] at h hae
          simp at h
          exact ⟨hb, a, W, _, _, hae, hr, h.symm⟩
    · left; simp [rejectWord, hwb, hb] at h
      refine ⟨hb, hae, ?_, .inr ⟨.rsvdNz, by decide, h.symm⟩⟩
      intro h2; rw [h2] at a; simp at a
    · left; simp [exec, execNop, hwb, hb] at h
      exact ⟨hb, hae, by rw [a]; decide, .inl h.symm⟩
    · right; right; left; simp [exec, execKeyclr, hwb, hb] at h
      exact ⟨hb, by rw [a]; decide, _, hae, by simp, by simp, h.symm⟩
    · cases hk : s.skv with
      | true =>
        right; right; left; simp [exec, execDecrypt, hwb, hb, hwk, hk] at h hae
        exact ⟨hb, by rw [a]; decide, _, hae, by simp, by simp, h.symm⟩
      | false =>
        left; simp [exec, execDecrypt, hwb, hb, hwk, hk] at h hae
        exact ⟨hb, hae, by rw [a]; decide, .inr ⟨.noKey, by decide, h.symm⟩⟩
    · right; right; left; simp [exec, execClear, hwb, hb] at h
      exact ⟨hb, by rw [a]; decide, _, hae, by simp, by simp, h.symm⟩

end Sys2Proof.Machine
end

