-- ==== Sys2Proof/Laws/KeySchedule.lean ====
section
/-! SUPPORT. The key scheduler, one lemma for each of its parts. -/

namespace Sys2Proof

theorem Width.bytes_pos (W : Width) : 0 < W.bytes := by cases W <;> decide

theorem Width.bits_eq (W : Width) : W.bits = 8 * W.bytes := by cases W <;> rfl

end Sys2Proof

namespace Sys2Proof.Machine

/-- PackL keeps the number of key words. -/
theorem length_foldl_packByte {W : Width} (xs : List (Byte × Nat)) (l : List (Word W)) : (xs.foldl (packByte W) l).length = l.length := by
  induction xs generalizing l with
  | nil => rfl
  | cons x xs ih => rw [List.foldl_cons, ih]; simp [packByte]

theorem length_packL (W : Width) (key : List Byte) : (packL W key).length = keyWordCount W key.length := by
  unfold packL
  rw [length_foldl_packByte, List.length_replicate]

/-- One more iteration of Mix, at the end of the run. -/
theorem mixIter_succ {W : Width} (n : Nat) (m : MixVars W) : mixIter (n+1) m = mixStep (mixIter n m) := by
  induction n generalizing m with
  | zero => rfl
  | succ n ih => rw [mixIter, ih]; rfl

/-- After n iterations of Mix the indices are n modulo the two lengths, which have not changed. -/
theorem mixIter_indices {W : Width} (n : Nat) (m : MixVars W) (hi : m.i = 0) (hj : m.j = 0) :
    (mixIter n m).s.length = m.s.length ∧ (mixIter n m).l.length = m.l.length ∧
    (mixIter n m).i = n % m.s.length ∧ (mixIter n m).j = n % m.l.length := by
  induction n with
  | zero => simp [mixIter, hi, hj]
  | succ n ih =>
    rw [mixIter_succ]
    obtain ⟨h1, h2, h3, h4⟩ := ih
    simp [mixStep, h1, h2, h3, h4]

/-- ExpandKey gives t = 2(r+1) words (41_key_schedule.md R106). -/
theorem length_expandKey (W : Width) (r : Nat) (key : List Byte) : (expandKey W r key).length = 2 * (r + 1) := by
  simp [expandKey, mix, mixIter_length_s]

theorem length_keyBytes (key : Vector Byte 256) (b : Nat) (hb : b ≤ 256) : (keyBytes key b).length = b := by
  simp [keyBytes]
  omega

/-- The key bytes depend on K[0..b-1] only. -/
theorem keyBytes_congr (k k' : Vector Byte 256) (b : Nat) (h : ∀ n : Fin 256, n.val < b → k[n] = k'[n]) :
    keyBytes k b = keyBytes k' b := by
  unfold keyBytes
  apply List.ext_getElem
  · simp
  · intro i h1 h2
    simp only [List.getElem_take, Vector.getElem_toList]
    simp at h1
    exact h ⟨i, h1.2⟩ h1.1

end Sys2Proof.Machine
end

