-- ==== Sys2Proof/Laws/PerInstr.lean ====
section
/-! SUPPORT. Facts about every command as syntax, one lemma for each constructor. -/

namespace Sys2Proof

/-- The word of a command is in the command's row of the opcode map (30_encoding.md R76). -/
def Laws.TableRow.Statement (i : Instr) : Prop := i.row.holds (encode i) = true

theorem Laws.TableRow.nop : Laws.TableRow.Statement .nop := by
  unfold Laws.TableRow.Statement
  decide

theorem Laws.TableRow.keyclr : Laws.TableRow.Statement .keyclr := by
  unfold Laws.TableRow.Statement
  decide

theorem Laws.TableRow.expand (wsel : BitVec 2) (r b : BitVec 8) : Laws.TableRow.Statement (.expand wsel r b) := by
  show (encode (.expand wsel r b) &&& 0xFFC0000F#32 == 0x00000002#32) = true
  rw [beq_iff_eq]
  apply BitVec.eq_of_getLsbD_eq
  intro i hi
  interval_cases i <;> simp [encode]

theorem Laws.TableRow.decrypt : Laws.TableRow.Statement .decrypt := by
  unfold Laws.TableRow.Statement
  decide

theorem Laws.TableRow.clear : Laws.TableRow.Statement .clear := by
  unfold Laws.TableRow.Statement
  decide

end Sys2Proof
end

