-- ==== Sys2Proof/Laws/Port.lean ====
section
/-! SUPPORT. What one step can do in the terms that claims use: the kinds of step exclude each other, and each does one thing. -/

namespace Sys2Proof.Machine

/-! ### The kinds of step -/

/-- A step that serves an access is no turn of the engine and no reset. -/
theorem not_engineTurn_of_access {s : State} {x : RegName × AccessKind} (h : s.nextAccess = some x) : s.engineTurn = false ∧ s.resetNext = false := by
  unfold State.nextAccess at h
  unfold State.engineTurn State.resetNext
  cases hin : s.inputs with
  | nil => simp [hin] at h
  | cons e rest =>
    cases e <;> simp [hin, Input.target] at h ⊢

/-- The engine's turn is no access and no reset. -/
theorem no_access_of_engineTurn {s : State} (h : s.engineTurn = true) : s.nextAccess = none ∧ s.resetNext = false := by
  unfold State.engineTurn at h
  unfold State.nextAccess State.resetNext
  cases hin : s.inputs with
  | nil => simp
  | cons e rest => simp [hin] at h; subst h; simp [Input.target]

/-- A reset is no access and no turn of the engine. -/
theorem no_access_of_resetNext {s : State} (h : s.resetNext = true) : s.nextAccess = none ∧ s.engineTurn = false := by
  unfold State.resetNext at h
  unfold State.nextAccess State.engineTurn
  cases hin : s.inputs with
  | nil => simp [hin] at h
  | cons e rest => simp [hin] at h; subst h; simp [Input.target]

/-- The engine's turn, listed or because nothing is. -/
theorem step_of_engineTurn {s : State} (h : s.engineTurn = true) : step s = .next (engineStep (takeInput s)) := by
  unfold State.engineTurn at h
  cases hin : s.inputs with
  | nil =>
    rw [step_nil hin]
    have hs : takeInput s = s := by cases s; simp_all [takeInput]
    rw [hs]
  | cons e rest =>
    rw [hin] at h
    simp at h; subst h
    rw [step_cons hin]; rfl

/-- A reset. -/
theorem step_of_resetNext {s : State} (h : s.resetNext = true) : step s = .next (resetStep (takeInput s)) := by
  unfold State.resetNext at h
  cases hin : s.inputs with
  | nil => simp [hin] at h
  | cons e rest =>
    simp [hin] at h
    subst h
    rw [step_cons hin, serve_reset]

/-- What a step that answers a next state has done, each case with what it excludes. -/
theorem step_cases_apart {s t : State} (h : step s = .next t) :
    (∃ r, s.nextAccess = some (r, .read) ∧ s.engineTurn = false ∧ s.resetNext = false ∧
      t = respond (.data (readReg r (takeInput s)).1) (readReg r (takeInput s)).2) ∨
    (∃ r v, s.nextAccess = some (r, .write v) ∧ s.engineTurn = false ∧ s.resetNext = false ∧
      writeReg r v s.afterWrite = .next t) ∨
    (s.engineTurn = true ∧ s.nextAccess = none ∧ s.resetNext = false ∧ t = engineStep (takeInput s)) ∨
    (s.resetNext = true ∧ s.nextAccess = none ∧ s.engineTurn = false ∧ t = resetStep (takeInput s)) ∨
    (s.nextAccess = none ∧ s.engineTurn = false ∧ s.resetNext = false ∧ t = takeInput s) := by
  by_cases he : s.engineTurn = true
  · rw [step_of_engineTurn he] at h
    cases h
    exact .inr (.inr (.inl ⟨he, (no_access_of_engineTurn he).1, (no_access_of_engineTurn he).2, rfl⟩))
  by_cases hr : s.resetNext = true
  · rw [step_of_resetNext hr] at h
    cases h
    exact .inr (.inr (.inr (.inl ⟨hr, (no_access_of_resetNext hr).1, (no_access_of_resetNext hr).2, rfl⟩)))
  have he : s.engineTurn = false := by simpa using he
  have hr : s.resetNext = false := by simpa using hr
  rcases step_cases h with ⟨r, h1, h2⟩ | ⟨r, v, h1, h2⟩ | ⟨h1, _⟩ | ⟨h1, h2⟩ | ⟨h1, h2⟩
  · exact .inl ⟨r, h1, he, hr, h2⟩
  · exact .inr (.inl ⟨r, v, h1, he, hr, h2⟩)
  · rw [he] at h1
    cases h1
  · rw [hr] at h1
    cases h1
  · exact .inr (.inr (.inr (.inr ⟨h1, he, hr, h2⟩)))

/-! ### Accesses -/

/-- Which accesses the port serves, on numbers. -/
theorem accessLegal_iff (off : BitVec 12) (bytes : Nat) : accessLegal off bytes = true ↔ bytes = 4 ∧ off.toNat % 4 = 0 := by
  unfold accessLegal
  simp only [Bool.and_eq_true, beq_iff_eq]
  apply and_congr_right
  intro _
  rw [← BitVec.toNat_inj]
  simp

/-- A step that serves an access answers a next state. -/
theorem step_next_of_access {s : State} {x : RegName × AccessKind} (h : s.nextAccess = some x) : ∃ t, step s = .next t := by
  apply step_next_of_legal
  intro e he
  unfold State.nextAccess at h
  rw [he] at h
  simp at h
  cases e with
  | port off bytes kind => simp [Input.target] at h; exact h.1
  | bus a bytes kind =>
    simp only [Input.target] at h; simp only [Input.legal]
    cases hw : windowOffset a with
    | none => rfl
    | some off => rw [hw] at h; simp at h; exact h.1
  | engine => rfl
  | reset => rfl

/-- A step that serves a read. -/
theorem step_of_read {s : State} {r : RegName} (h : s.nextAccess = some (r, .read)) :
    step s = .next (respond (.data (readReg r (takeInput s)).1) (readReg r (takeInput s)).2) := by
  obtain ⟨t, ht⟩ := step_next_of_access h
  rcases step_cases_apart ht with ⟨r', h1, _, _, rfl⟩ | ⟨r', v', h1, _⟩ | ⟨_, h1, _⟩ | ⟨_, h1, _⟩ | ⟨h1, _⟩ <;> rw [h] at h1 <;>
    cases h1
  exact ht

/-- A step that serves a write. -/
theorem step_of_write {s : State} {r : RegName} {v : Reg32} (h : s.nextAccess = some (r, .write v)) :
    step s = writeReg r v s.afterWrite := by
  obtain ⟨t, ht⟩ := step_next_of_access h
  rcases step_cases_apart ht with ⟨r', h1, _⟩ | ⟨r', v', h1, _, _, h2⟩ | ⟨_, h1, _⟩ | ⟨_, h1, _⟩ | ⟨h1, _⟩ <;> rw [h] at h1 <;>
    cases h1
  rw [ht, h2]

/-- A 32-bit write at an aligned offset of the window. -/
theorem step_port_write {s : State} {off : BitVec 12} {v : Reg32} {rest : List Input} (hl : accessLegal off 4 = true)
    (h : s.inputs = .port off 4 (.write v) :: rest) :
    step s = writeReg (regAt off) v { s with inputs := rest, resp := .written } := by
  rw [step_cons h, serve_port, portAccess_legal hl]
  have : respond .written (takeInput s) = { s with inputs := rest, resp := .written } := by simp [respond, takeInput, h]
  rw [this]

/-- A 32-bit read at an aligned offset of the window. -/
theorem step_port_read {s : State} {off : BitVec 12} {rest : List Input} (hl : accessLegal off 4 = true)
    (h : s.inputs = .port off 4 .read :: rest) :
    step s =
      if s.busy && (regAt off).isBuffer then
        .next { s with inputs := rest, resp := .data (Config.freeRead s.draws), draws := s.draws + 1 }
      else .next { s with inputs := rest, resp := .data (s.regValue (regAt off)) } := by
  rw [step_cons h, serve_port, portAccess_legal hl]
  have : takeInput s = { s with inputs := rest } := by simp [takeInput, h]
  rw [this]
  have hb : State.busy { s with inputs := rest } = s.busy := rfl
  simp only [readReg, hb]
  by_cases hc : (s.busy && (regAt off).isBuffer) = true
  · simp only [if_pos hc]
    rfl
  · simp only [if_neg hc]
    cases regAt off <;> rfl

/-- A write to CMD is a presentation of its word. -/
theorem step_cmd {s : State} {v : BitVec 32} {rest : List Input} (h : s.inputs = .port 0x010#12 4 (.write v) :: rest) :
    step s = presentCommand v { s with inputs := rest, resp := .written } :=
  step_port_write (by decide) h

/-- A read leaves the state, but for the count of the free values. -/
theorem readReg_state (r : RegName) (s : State) : (readReg r s).2 = s ∨ (readReg r s).2 = useDraw s := by
  unfold readReg
  split <;> simp

end Sys2Proof.Machine
end

