-- ==== Sys2Proof/Tests/Slice0.lean ====
section
/-! SUPPORT. Tests: words, word operations, tables and single steps against the values that 95_test_vectors.md and the rules'
own examples give; and, for each obligation with hypotheses, a concrete state and operands that meet them. -/

namespace Sys2Proof.Tests

set_option Elab.async false

open Sys2Proof Sys2Proof.Machine

/-! ### Helpers -/

/-- The words of a table as numbers. -/
def values {W : Width} (l : List (Word W)) : List Nat := l.map BitVec.toNat

/-- The reset state with these inputs to come. -/
def idle (inputs : List Input) : State := { State.reset with inputs := inputs }

/-- A state with this command pending and these inputs to come. -/
def pending (p : Pending) (inputs : List Input) : State := { State.reset with pend := some p, inputs := inputs }

/-- A state with the table of the empty key for W = 32 and r = 1, as an EXPAND 32, 1, 0 leaves it. -/
def keyed (inputs : List Input) : State :=
  { State.reset with
    done := true, skv := true, curW := .w32, curR := 1, sub := storeTable (expandKey .w32 1 []), inputs := inputs }

/-- A state with an error recorded. -/
def failed (code : ErrCode) (inputs : List Input) : State :=
  { State.reset with errv := true, err := code, inputs := inputs }

/-- A 32-bit write at an offset of the window. -/
def wr (off : BitVec 12) (v : BitVec 32) : Input := .port off 4 (.write v)

/-- A 32-bit read at an offset of the window. -/
def rd (off : BitVec 12) : Input := .port off 4 .read

/-- A step answers a next state in which this holds. -/
def after (s : State) (p : State → Bool) : Bool :=
  match step s with
  | .next t => p t
  | .fault _ => false
  | .refused _ => false

/-- A step is this fault. -/
def faults (s : State) (f : Fault) : Bool :=
  match step s with
  | .next _ => false
  | .fault g => g == f
  | .refused _ => false

/-! ### Well-formed commands (30_encoding.md R80) -/

theorem test_wf_refuses_width_select_3 : (Instr.expand 3#2 12#8 16#8).widthLegal = false := by decide

theorem test_wf_refuses_round_count_0 : (Instr.expand 1#2 0#8 16#8).roundsLegal = false := by decide

theorem test_wf_refuses_both : (Instr.expand 3#2 12#8 16#8).wf = false ∧ (Instr.expand 1#2 0#8 16#8).wf = false := by decide

theorem test_wf_accepts : (Instr.expand 2#2 255#8 0#8).wf = true ∧ Instr.nop.wf = true ∧ Instr.clear.wf = true := by decide

/-! ### Words, written out from the spec's encodings -/

-- 30_encoding.md R76
theorem test_decode_nop : decodeWord 0b00000000000000000000000000000000#32 = .command .nop := by decide

-- 30_encoding.md R76
theorem test_decode_keyclr : decodeWord 0b00000000000000000000000000000001#32 = .command .keyclr := by decide

-- 30_encoding.md R72: RSV 10 bits, B 8 bits, R 8 bits, WSEL 2 bits, OP 4 bits; its example is 0x00040312
theorem test_decode_expand :
    decodeWord 0b0000000000_00010000_00001100_01_0010#32 = .command (.expand 1#2 12#8 16#8) ∧
    encode (.expand 1#2 12#8 16#8) = 0x00040312#32 := by decide

-- 30_encoding.md R76
theorem test_decode_decrypt : decodeWord 0b00000000000000000000000000000011#32 = .command .decrypt := by decide

-- 30_encoding.md R76
theorem test_decode_clear : decodeWord 0b00000000000000000000000000000100#32 = .command .clear := by decide

-- 95_test_vectors.md section 5, E3 to E9, E16
theorem test_decode_rejected :
    decodeWord 0x00000005#32 = .illegalOp ∧ decodeWord 0x0000000F#32 = .illegalOp ∧
    decodeWord 0x00000010#32 = .reservedBits ∧ decodeWord 0x80000003#32 = .reservedBits ∧
    decodeWord 0x00400312#32 = .reservedBitsExpand ∧ decodeWord 0x003FFFE2#32 = .command (.expand 2#2 255#8 255#8) := by decide

-- 30_encoding.md R76: no word is in two rows
theorem test_rows_disjoint :
    opcodeTable.Pairwise fun a b => (a.pattern ^^^ b.pattern) &&& a.mask &&& b.mask ≠ 0 := by decide

theorem test_decode_table_word : decodeTableWord 32 0x00040312 = some (.expand 1#2 12#8 16#8) ∧ decodeTableWord 32 15 = none := by
  decide

/-! ### Word operations (95_test_vectors.md section 2) -/

theorem test_add_sub :
    (addW (W := .w16) 0xFFFF#16 0x0001#16).toNat = 0 ∧ (subW (W := .w16) 0x0000#16 0x0001#16).toNat = 0xFFFF ∧
    (subW (W := .w32) 0x00000005#32 0x00000009#32).toNat = 0xFFFFFFFC ∧
    (addW (W := .w64) 0x8000000000000000#64 0x8000000000000000#64).toNat = 0 := by decide

theorem test_rotl :
    (rotlW (W := .w16) 0x1234#16 20).toNat = 0x2341 ∧ (rotlW (W := .w16) 0x1234#16 16).toNat = 0x1234 ∧
    (rotlW (W := .w16) 0x8001#16 1).toNat = 0x0003 ∧ (rotlW (W := .w32) 0x12345678#32 0xFFFFFFE4).toNat = 0x23456781 ∧
    (rotlW (W := .w64) 0x8000000000000000#64 1).toNat = 1 := by decide

theorem test_rotr :
    (rotrW (W := .w32) 0x00000001#32 1).toNat = 0x80000000 ∧ (rotrW (W := .w32) 0x12345678#32 33).toNat = 0x091A2B3C ∧
    (rotrW (W := .w64) 0x0000000000000001#64 65).toNat = 0x8000000000000000 ∧
    (rotrW (W := .w64) 0x0123456789ABCDEF#64 64).toNat = 0x0123456789ABCDEF := by decide

theorem test_xor : (xorW (W := .w16) 0x00FF#16 0x0F0F#16).toNat = 0x0FF0 := by decide

/-! ### The key scheduler -/

-- 41_key_schedule.md R101: Q is the odd integer nearest to (φ - 1) 2^W, that is |2 Q + 2^W - sqrt 5 2^W| < 2
theorem test_magic_q_nearest_odd :
    ∀ W ∈ [Width.w16, Width.w32, Width.w64], (magicQ W).toNat % 2 = 1 ∧
      (2 * ((magicQ W).toNat - 1) + 2 ^ W.bits) ^ 2 < 5 * 2 ^ (2 * W.bits) ∧
      5 * 2 ^ (2 * W.bits) < (2 * ((magicQ W).toNat + 1) + 2 ^ W.bits) ^ 2 := by decide +kernel

-- 41_key_schedule.md R101: P is the odd integer nearest to (e - 2) 2^W; 25! (e - 2) lies between n and n + 1
theorem test_magic_p_nearest_odd :
    let n := ((List.range 24).map fun k => Nat.factorial 25 / Nat.factorial (k + 2)).sum
    ∀ W ∈ [Width.w16, Width.w32, Width.w64], (magicP W).toNat % 2 = 1 ∧
      ((magicP W).toNat - 1) * Nat.factorial 25 < n * 2 ^ W.bits ∧
      (n + 1) * 2 ^ W.bits < ((magicP W).toNat + 1) * Nat.factorial 25 := by decide +kernel

-- 95_test_vectors.md section 3.1
theorem test_initS :
    values ((initS .w32 1)) = [0xB7E15163, 0x5618CB1C, 0xF45044D5, 0x9287BE8E] ∧
    (values (initS .w64 255)).getD 511 0 = 0x889D4AA7A09AD856 := by decide +kernel

-- 95_test_vectors.md section 3.2
theorem test_packL :
    values (packL .w16 []) = [0] ∧ values (packL .w16 [1, 2, 3]) = [0x0201, 0x0003] ∧
    values (packL .w32 [0x11, 0x22, 0x33, 0x44, 0x55]) = [0x44332211, 0x00000055] ∧
    values (packL .w64 [1, 2, 3, 4, 5, 6, 7, 8, 9]) = [0x0807060504030201, 0x0000000000000009] := by decide +kernel

-- 95_test_vectors.md section 3.3, the rows k = 0 and k = 3
theorem test_mix_trace :
    let m0 : MixVars .w16 := { s := initS .w16 1, l := packL .w16 [], a := 0, b := 0, i := 0, j := 0 }
    ((mixIter 1 m0).a.toNat, (mixIter 1 m0).b.toNat) = (0xBF0D, 0xB7E1) ∧
    ((mixIter 4 m0).a.toNat, (mixIter 4 m0).b.toNat) = (0x909B, 0x2C70) := by decide +kernel

-- 95_test_vectors.md sections 3.3, 3.4, 3.5
theorem test_expandKey_small :
    values (expandKey .w16 1 []) = [0xAC1B, 0x563C, 0x816D, 0xD4B8] ∧
    values (expandKey .w16 1 [1, 2, 3]) = [0x68D4, 0xEEFF, 0x047C, 0xF307] ∧
    values (expandKey .w32 1 []) = [0xD1CE682A, 0x71B3F2BB, 0x1727B96C, 0x3329BB3A] ∧
    values (expandKey .w64 1 []) =
      [0x9FCDA5C4F47E7B57, 0xD71589D886BC41BB, 0x1670FD071E46C8BF, 0xEA851FA4D3D2A40F] := by decide +kernel

-- 95_test_vectors.md section 3.5, V1's key
theorem test_expandKey_canonical :
    let S := values (expandKey .w32 12 (List.replicate 16 0))
    (S.getD 0 0, S.getD 1 0, S.getD 25 0) = (0x9BBBD8C8, 0x1A37F7FB, 0x65046380) := by decide +kernel

/-! ### The decryption engine -/

/-- DecryptBlock with the table of a key, on numbers. -/
def decryptNumbers (W : Width) (r : Nat) (key : List Byte) (a b : Nat) : Nat × Nat :=
  let T := expandKey W r key
  let ab := decryptBlock (fun n => T.getD n 0) r (BitVec.ofNat _ a, BitVec.ofNat _ b)
  (ab.1.toNat, ab.2.toNat)

-- 95_test_vectors.md section 4, D1, D3, D9, D12
theorem test_decrypt_one_round :
    decryptNumbers .w16 1 [] 0x010F 0x8051 = (0, 0) ∧
    decryptNumbers .w32 1 [1, 2, 3, 4] 0x17C328C9 0x35044CD0 = (0xFFFFFFFF, 0xFFFFFFFF) ∧
    decryptNumbers .w64 1 [] 0x78B7BE6801DCDA96 0xD6A6F7CB9F3E8C9C = (0, 0) ∧
    decryptNumbers .w16 1 [] 0x0000 0x0000 = (0x0C1B, 0xD50C) := by decide +kernel

-- 95_test_vectors.md section 1, V1: the canonical RC5-32/12/16 vector
theorem test_decrypt_canonical :
    decryptNumbers .w32 12 (List.replicate 16 0) 0xEEDBA521 0x6D8F4B15 = (0, 0) := by decide +kernel

/-! ### Single steps of the commands (95_test_vectors.md section 5) -/

-- E1
theorem test_nop_accepted : after (idle [wr 0x010 0]) (fun t => t.statusWord == 0x00000000 && t.inputs == []) = true := by
  decide +kernel

-- E5 and R138's corner case
theorem test_nop_rejected :
    after (idle [wr 0x010 0x10]) (fun t => t.statusWord == 0x00000208) = true ∧
    after (pending .keyclr [wr 0x010 0]) (fun t => t.statusWord == 0x00000609) = true := by decide +kernel

-- E14
theorem test_keyclr_issue :
    after (keyed [wr 0x010 1]) (fun t => t.statusWord == 0x01010005 && t.pend == some .keyclr) = true := by decide +kernel

-- R110's example
theorem test_keyclr_completion :
    after { pending .keyclr [.engine] with key := Vector.replicate 256 0x2B }
      (fun t => t.regValue (.key 0) == 0 && t.regValue (.key 63) == 0 && t.statusWord == 0x00000002) = true := by decide +kernel

-- E10, E8, E9, E7
theorem test_expand_issue :
    after (idle [wr 0x010 0x42]) (fun t => t.statusWord == 0x00000001 && t.pend == some (.expand .w16 1 0)) = true ∧
    after (keyed [wr 0x010 0x32]) (fun t => t.statusWord == 0x0000030A) = true ∧
    after (keyed [wr 0x010 0x12]) (fun t => t.statusWord == 0x0000040A) = true ∧
    after (keyed [wr 0x010 0x00400312]) (fun t => t.statusWord == 0x0000020A) = true := by decide +kernel

-- program P3: W = 16, r = 1, b = 6, K = 01 02 03 00 00 00 00 ...
theorem test_expand_completion :
    after { setKey 0 0x00030201 (pending (.expand .w16 1 6) [.engine]) with skidx := 3 }
      (fun t => t.statusWord == 0x01000006 && t.regValue .skdataLo == 0x000075EB && t.regValue .skdataHi == 0 &&
        t.subAt 4 == 0) = true := by decide +kernel

-- E2, E6, E13
theorem test_decrypt_issue :
    after (idle [wr 0x010 3]) (fun t => t.statusWord == 0x00000508) = true ∧
    after (idle [wr 0x010 0x80000003]) (fun t => t.statusWord == 0x00000208) = true ∧
    after (keyed [wr 0x010 3]) (fun t => t.statusWord == 0x01010005) = true := by decide +kernel

-- program P3: A = 4691, B = 4A29, DATA1 not part of the block
theorem test_decrypt_completion :
    after
      { pending .decrypt [.engine] with
        skv := true, curW := .w16, curR := 1, sub := storeTable (expandKey .w16 1 [1, 2, 3, 0, 0, 0])
        blk := 0xDEADBEEF4A294691 }
      (fun t => t.regValue (.data 0) == 0x56781234 && t.regValue (.data 1) == 0xDEADBEEF && t.statusWord == 0x01000006) =
        true := by decide +kernel

-- E15
theorem test_clear_issue :
    after (keyed [wr 0x010 4]) (fun t => t.statusWord == 0x01010005 && t.pend == some .clear) = true := by decide +kernel

-- E15, program P5
theorem test_clear_completion :
    after { keyed [.engine] with pend := some .clear, done := false, blk := 7, skidx := 2, ieErr := true }
      (fun t => t.statusWord == 0x00000002 && t.blk == 0 && t.subAt 2 == 0 && t.dp == .zero && t.skidx == 2 && t.ieErr) =
        true := by decide +kernel

-- E3, E12: the first error is kept
theorem test_first_error_kept :
    after (idle [wr 0x010 5]) (fun t => t.statusWord == 0x00000108) = true ∧
    after (failed .noKey [wr 0x010 5]) (fun t => t.statusWord == 0x00000508) = true := by decide +kernel

/-! ### Single steps of the port (95_test_vectors.md section 5, A rows) -/

-- A1, A2, A6, A9
theorem test_constant_reads :
    after (idle [rd 0x000]) (fun t => t.resp == .data 0x52433544) = true ∧
    after (idle [rd 0x004]) (fun t => t.resp == .data 0x00FFFF07) = true ∧
    after (idle [rd 0x030]) (fun t => t.resp == .data 0) = true ∧
    after (idle [rd 0x800]) (fun t => t.resp == .data 0) = true ∧
    after (idle [rd 0x010]) (fun t => t.resp == .data 0) = true := by decide +kernel

-- A4, A5
theorem test_bus_errors :
    faults (idle [rd 0x002]) (.busError 0x002) = true ∧
    faults (idle [.port 0x020 2 (.write 1)]) (.busError 0x020) = true := by decide +kernel

-- A7, A8: every bit of the value written is 1
theorem test_ctrl_and_skidx :
    after (idle [wr 0x008 0xFFFFFFFF]) (fun t => t.ctrlWord == 0x00000003) = true ∧
    after (idle [wr 0x014 0xFFFFFFFF]) (fun t => t.regValue .skidx == 0x000001FF) = true := by decide +kernel

-- A10, A11
theorem test_status_w1c :
    after { failed .noKey [wr 0x00C 2] with done := true } (fun t => t.statusWord == 0x00000508) = true ∧
    after { failed .noKey [wr 0x00C 8] with done := true } (fun t => t.statusWord == 0x00000002) = true := by decide +kernel

-- A12
theorem test_data_write_while_busy :
    after (pending .keyclr [wr 0x020 1]) (fun t => t.blk == 0 && t.statusWord == 0x00000609) = true := by decide +kernel

-- A14, and the entry below it: W = 32, r = 1, b = 0, S[3] = 3329BB3A
theorem test_readback :
    after { keyed [rd 0x018] with skidx := 4 } (fun t => t.resp == .data 0) = true ∧
    after { keyed [rd 0x018] with skidx := 3 } (fun t => t.resp == .data 0x3329BB3A) = true := by decide +kernel

-- A15, A16
theorem test_irq :
    State.irq { failed .badR [] with ieErr := true } = true ∧ State.irq { keyed [] with ieDone := true } = true ∧
    after { keyed [wr 0x00C 2] with ieDone := true } (fun t => !t.irq) = true := by decide +kernel

-- 10_state.md R37: K[4k] is bits 7:0 of KEYk
theorem test_key_write :
    after (idle [wr 0x100 0x19465F91]) (fun t => keyBytes t.key 4 == [0x91, 0x5F, 0x46, 0x19]) = true ∧
    after (idle [wr 0x1FC 0xFFFEFDFC]) (fun t => t.key[252] == 0xFC && t.key[255] == 0xFF && t.key[251] == 0) = true := by
  decide +kernel

-- 70_reset_and_hazards.md R171
theorem test_reset_abandons :
    after { pending (.expand .w32 12 16) [.reset] with blk := 5 } (fun t => t.statusWord == 0 && t.blk == 0 && t.pend == none) =
      true := by decide +kernel

/-! ### Witnesses: for each obligation with hypotheses, a state and operands that meet them -/

theorem test_witness_EncodeOfDecode : decodeWord 0x003FFFE2#32 = .command (.expand 2#2 255#8 255#8) := by decide

theorem test_witness_OpcodeMapByMatchAndMask :
    rowExpand ∈ opcodeTable ∧ 0x003FFFF2#32 &&& rowExpand.mask = rowExpand.pattern ∧
    decodeWord 0x00000012#32 = .command (.expand 1#2 0#8 0#8) := by decide

theorem test_witness_StepRunsTheDecodedCommand :
    (idle [wr 0x010 3, rd 0x00C]).inputs = .port 0x010#12 4 (.write 3#32) :: [rd 0x00C] ∧ decodeWord 3#32 = .command .decrypt ∧
    decodeTableWord 32 4 = some .clear := by decide

theorem test_witness_CommandWriteFollowsIssueChecks :
    (pending .clear [wr 0x010 5]).inputs = .port 0x010#12 4 (.write 5#32) :: [] := rfl

theorem test_witness_IllegalOpcodeRejected :
    (idle []).busy = false ∧ 5 ≤ ((0x00000005#32).extractLsb' 0 4).toNat ∧
    5 ≤ ((0xFFFFFFFF#32).extractLsb' 0 4).toNat := by decide

theorem test_witness_ReservedAndIllegalFieldsRejected :
    (keyed []).busy = false ∧
    (((0x00000010#32).extractLsb' 0 4).toNat ∈ [0, 1, 3, 4] ∧ (0x00000010#32).extractLsb' 4 28 ≠ 0) ∧
    (((0x80000004#32).extractLsb' 0 4).toNat ∈ [0, 1, 3, 4] ∧ (0x80000004#32).extractLsb' 4 28 ≠ 0) ∧
    (((0x00400312#32).extractLsb' 0 4).toNat = 2 ∧ (0x00400312#32).extractLsb' 22 10 ≠ 0) ∧
    (((0x80000002#32).extractLsb' 0 4).toNat = 2 ∧ (0x80000002#32).extractLsb' 22 10 ≠ 0) ∧
    (((0x00000032#32).extractLsb' 0 4).toNat = 2 ∧ (0x00000032#32).extractLsb' 22 10 = 0 ∧ (0x00000032#32).extractLsb' 4 2 = 3) ∧
    (((0x003FFFF2#32).extractLsb' 0 4).toNat = 2 ∧ (0x003FFFF2#32).extractLsb' 22 10 = 0 ∧ (0x003FFFF2#32).extractLsb' 4 2 = 3) ∧
    (((0x00000002#32).extractLsb' 0 4).toNat = 2 ∧ (0x00000002#32).extractLsb' 22 10 = 0 ∧ (0x00000002#32).extractLsb' 4 2 ≠ 3 ∧
      (0x00000002#32).extractLsb' 6 8 = 0) ∧
    (((0x003FC022#32).extractLsb' 0 4).toNat = 2 ∧ (0x003FC022#32).extractLsb' 22 10 = 0 ∧ (0x003FC022#32).extractLsb' 4 2 ≠ 3 ∧
      (0x003FC022#32).extractLsb' 6 8 = 0) := by decide

theorem test_witness_IssueFrame :
    (∃ t, exec .nop (idle []) = .next t) ∧ (∃ t, exec .keyclr (idle []) = .next t) ∧
    (∃ t, exec (.expand 1#2 12#8 16#8) (idle []) = .next t) ∧ (∃ t, exec .decrypt (keyed []) = .next t) ∧
    (∃ t, exec .clear (pending .clear []) = .next t) := ⟨⟨_, rfl⟩, ⟨_, rfl⟩, ⟨_, rfl⟩, ⟨_, rfl⟩, ⟨_, rfl⟩⟩

theorem test_witness_RecordedErrorsDoNotBlock : ∃ t, presentCommand 1#32 (idle []) = .next t := presentCommand_next _ _

theorem test_witness_NopCompletes :
    (idle []).busy = false ∧ (pending .clear []).busy = true ∧
    (0x00000010#32).extractLsb' 0 4 = 0 ∧ (0x00000010#32).extractLsb' 4 28 ≠ 0 := by decide

theorem test_witness_KeyclrCompletes :
    (idle []).busy = false ∧ (pending .clear []).busy = true ∧
    (0x80000001#32).extractLsb' 0 4 = 1 ∧ (0x80000001#32).extractLsb' 4 28 ≠ 0 := by decide

theorem test_witness_ExpandCompletes :
    (idle []).busy = false ∧ decodeW 2#2 = some .w64 ∧ (255#8 : BitVec 8) ≠ 0 ∧ (1#8 : BitVec 8) ≠ 0 ∧
    (pending .clear []).busy = true ∧ decodeW 3#2 = none ∧ decodeW 0#2 ≠ none ∧
    (0x00400312#32).extractLsb' 0 4 = 2 ∧ (0x00400312#32).extractLsb' 22 10 ≠ 0 := by decide

theorem test_witness_DecryptCompletes :
    (keyed []).busy = false ∧ (keyed []).skv = true ∧ (pending .clear []).busy = true ∧ (idle []).busy = false ∧
    (idle []).skv = false ∧ (0x80000003#32).extractLsb' 0 4 = 3 ∧ (0x80000003#32).extractLsb' 4 28 ≠ 0 := by decide

theorem test_witness_ClearCompletes :
    (keyed []).busy = false ∧ (pending .clear []).busy = true ∧
    (0x00000014#32).extractLsb' 0 4 = 4 ∧ (0x00000014#32).extractLsb' 4 28 ≠ 0 := by decide

theorem test_witness_EngineTurnCompletesExactlyWhenBusy :
    (idle []).engineTurn = true ∧ (idle [.engine]).engineTurn = true ∧ (idle [.engine]).busy = false ∧
    (pending .keyclr [.engine]).engineTurn = true ∧ (pending .keyclr [.engine]).pend = some .keyclr ∧
    (pending (.expand .w64 255 255) []).engineTurn = true ∧
    (pending (.expand .w64 255 255) []).pend = some (.expand .w64 255 255) ∧
    (pending .decrypt [.engine]).pend = some .decrypt ∧ (pending .clear [.engine]).pend = some .clear := by decide

theorem test_witness_BusyChangesOnlyAsRuled :
    after (idle [wr 0x010 1]) (fun t => t.busy) = true ∧ after (pending .keyclr [.engine]) (fun t => !t.busy) = true ∧
    after (pending .keyclr [.reset]) (fun t => !t.busy) = true ∧ after (pending .keyclr [wr 0x010 1]) (fun t => t.busy) = true := by
  decide +kernel

theorem test_witness_DoneChangesOnlyAsRuled :
    after (pending .keyclr []) (fun t => t.done) = true ∧ after (keyed [wr 0x010 1]) (fun t => !t.done) = true ∧
    after (keyed [wr 0x00C 2]) (fun t => !t.done) = true ∧ after (keyed [wr 0x010 5]) (fun t => t.done) = true := by decide +kernel

theorem test_witness_TableReportChangesOnlyAsRuled :
    after (pending (.expand .w16 1 0) [.engine]) (fun t => t.skv && t.curR == 1) = true ∧
    after (keyed [wr 0x010 0x32]) (fun t => !t.skv) = true ∧ after (keyed [.reset]) (fun t => !t.skv) = true ∧
    after (keyed [wr 0x010 5]) (fun t => t.skv) = true := by decide +kernel

theorem test_witness_StorageChangesOnlyByItsWriters :
    after (pending (.expand .w16 1 0) [.engine]) (fun t => t.sub[0] != (0 : BitVec 64)) = true ∧
    after (idle [wr 0x1FC 1]) (fun t => t.key[252] != (0 : Byte)) = true ∧
    after (idle [wr 0x02C 1]) (fun t => t.blk != 0) = true := by decide +kernel

theorem test_witness_InFlightCommandIsFixed :
    after (pending .clear [wr 0x100 1]) (fun t => t.busy) = true ∧ (pending .clear [wr 0x100 1]).busy = true ∧
    (pending .clear [wr 0x100 1]).engineTurn = false ∧ (pending .clear [wr 0x100 1]).resetNext = false := by decide +kernel

theorem test_witness_PendingCommandCompletes :
    (pending .decrypt [rd 0x00C, wr 0x010 3, .engine]).hostLegal ∧
    (pending .decrypt [rd 0x00C, wr 0x010 3, .engine]).pend = some .decrypt ∧
    .reset ∉ (pending .decrypt [rd 0x00C, wr 0x010 3, .engine]).inputs := by
  unfold State.hostLegal
  decide

theorem test_witness_IssueRaceHasBothOutcomes :
    (pending (.expand .w16 1 0) []).pend = some (.expand .w16 1 0) ∧ (pending (.expand .w16 1 0) []).errv = false := by decide

theorem test_witness_FirstErrorIsKept :
    after (failed .noKey [wr 0x00C 0x2]) (fun t => t.err == .noKey) = true ∧ (failed .noKey [wr 0x00C 0x2]).errv = true ∧
    (failed .noKey [wr 0x00C 0x2]).resetNext = false ∧
    ∀ v : BitVec 32, (failed .noKey [wr 0x00C 0x2]).nextAccess = some (.status, .write v) → v.getLsbD 3 = false := by
  refine ⟨by decide +kernel, by decide, by decide, ?_⟩
  intro v h
  have h2 : (failed .noKey [wr 0x00C 0x2]).nextAccess = some (.status, .write 0x2) := by decide
  rw [h2] at h
  cases h
  decide

theorem test_witness_ErrorEntryChangesNothingElse :
    (keyed [wr 0x010 0x12]).errv = false ∧ after (keyed [wr 0x010 0x12]) (fun t => t.errv) = true ∧
    after (pending .clear [wr 0x02C 1]) (fun t => t.errv) = true := by decide +kernel

theorem test_witness_StatusWriteClears : (pending .clear [wr 0x00C 0xA]).inputs = .port 0x00C#12 4 (.write 0xA#32) :: [] := rfl

theorem test_witness_InterruptSources :
    after (pending .keyclr [.engine]) (fun t => t.done) = true ∧ (pending .keyclr [.engine]).completing.isSome = true ∧
    after (keyed [wr 0x008 3]) (fun t => t.irq) = true ∧ (keyed [wr 0x008 3]).nextAccess = some (.ctrl, .write 3) ∧
    after (keyed [wr 0x00C 0xA]) (fun t => !t.irq) = true ∧ (keyed [wr 0x00C 0xA]).nextAccess = some (.status, .write 0xA) ∧
    after (keyed [.reset]) (fun t => !t.irq) = true ∧ (keyed [.reset]).resetNext = true := by decide +kernel

theorem test_witness_BusErrorExactlyWhenIllegal :
    (idle [.port 0x023 4 .read]).inputs = .port 0x023#12 4 .read :: [] ∧ (0x023#12).toNat % 4 ≠ 0 ∧
    (idle [rd 0xFFC]).inputs = .port 0xFFC#12 4 .read :: [] ∧ (0xFFC#12).toNat % 4 = 0 ∧
    faults (idle [.port 0x020 1 (.write 0)]) (.busError 0x020) = true ∧ (idle [rd 0x000, .reset]).hostLegal := by
  refine ⟨rfl, by decide, rfl, by decide, by decide +kernel, ?_⟩
  unfold State.hostLegal
  decide

theorem test_witness_WindowDecode :
    windowOffset Config.rc5Base = some 0x000#12 ∧ windowOffset (Config.rc5Base + 0xFFC) = some 0xFFC#12 ∧
    windowOffset (Config.rc5Base + 0x1000) = none := by
  unfold windowOffset Config.rc5Base
  generalize Config.rc5Page = p
  refine ⟨?_, ?_, ?_⟩
  · rw [if_pos (by omega), Nat.mul_mod_left]
  · rw [if_pos (by omega)]
    exact congrArg some (by rw [show (p * 0x1000 + 0xFFC) % 0x1000 = 0xFFC by omega])
  · rw [if_neg (by omega)]

theorem test_witness_RegisterMapOffsets :
    0x030 ≤ (0x030#12).toNat ∧ (0x0FF#12).toNat ≤ 0x0FF ∧ 0x200 ≤ (0x200#12).toNat ∧ 0x200 ≤ (0xFFF#12).toNat := by decide

theorem test_witness_IdAndCapAreConstant :
    (0x004#12, 0x00FFFF07#32) ∈ [(0x000#12, 0x52433544#32), (0x004#12, 0x00FFFF07#32)] ∧
    (pending .clear [rd 0x004]).inputs = .port 0x004#12 4 .read :: [] ∧
    (idle [wr 0x004 7]).inputs = .port 0x004#12 4 (.write 7#32) :: [] := by decide

theorem test_witness_ReservedPlacesReadZeroIgnoreWrites :
    (0x010#12).toNat % 4 = 0 ∧ (0x01C#12).toNat % 4 = 0 ∧ (0x0FC#12).toNat % 4 = 0 ∧ (0xFFC#12).toNat % 4 = 0 ∧
    (0x030 ≤ (0x0FC#12).toNat ∧ (0x0FC#12).toNat ≤ 0x0FC) ∧ 0x200 ≤ (0xFFC#12).toNat ∧
    (idle [rd 0xFFC]).inputs = .port 0xFFC#12 4 .read :: [] ∧
    (idle [wr 0x01C 1]).inputs = .port 0x01C#12 4 (.write 1#32) :: [] := by decide

theorem test_witness_ReadsHaveNoSideEffect :
    (pending .clear [rd 0x1FC]).nextAccess = some (.key 63, .read) ∧ (idle [rd 0x00C]).nextAccess = some (.status, .read) := by
  decide

theorem test_witness_StatusReadFields : (keyed [rd 0x00C]).inputs = .port 0x00C#12 4 .read :: [] := rfl

theorem test_witness_CtrlWriteThenRead :
    (idle [wr 0x008 0xFFFFFFFF, rd 0x008]).inputs =
      .port 0x008#12 4 (.write 0xFFFFFFFF#32) :: .port 0x008#12 4 .read :: [] := rfl

theorem test_witness_SkidxWriteThenRead :
    (idle [wr 0x014 0xFFFFFFFF, rd 0x014]).inputs =
      .port 0x014#12 4 (.write 0xFFFFFFFF#32) :: .port 0x014#12 4 .read :: [] ∧
    after (idle [wr 0x014 511]) (fun t => t.skidx != (idle [wr 0x014 511]).skidx) = true ∧
    after { idle [.reset] with skidx := 5 } (fun t => t.skidx == 0) = true := by
  refine ⟨rfl, by decide +kernel, by decide +kernel⟩

theorem test_witness_SubkeyReadback :
    (0x01C#12, 32) ∈ [(0x018#12, 0), (0x01C#12, 32)] ∧ (keyed [rd 0x01C]).inputs = .port 0x01C#12 4 .read :: [] ∧
    (keyed [rd 0x01C]).busy = false ∧ (keyed [rd 0x01C]).skv = true ∧
    State.skidx { keyed [rd 0x01C] with skidx := 3 } = 3 ∧ (3 : BitVec 9).toNat < 2 * ((keyed [rd 0x01C]).curR.toNat + 1) ∧
    2 * ((keyed [rd 0x01C]).curR.toNat + 1) ≤ (4 : BitVec 9).toNat ∧ (pending .clear [rd 0x01C]).busy = true := by decide

theorem next_of_after {s : State} {p : State → Bool} (h : after s p = true) : ∃ t, step s = .next t := by
  unfold after at h
  cases hs : step s with
  | next t => exact ⟨t, rfl⟩
  | fault f => rw [hs] at h; cases h
  | refused r => rw [hs] at h; cases h

theorem keyed_inv (inputs : List Input) : (keyed inputs).Inv where
  err_none := fun _ => rfl
  err_some := by intro h; cases h
  no_table := by intro h; cases h
  table := fun _ => ⟨(by decide : (1#8 : BitVec 8) ≠ 0), [], by decide, rfl⟩
  pend_expand := by intro _ _ _ h; cases h
  pend_decrypt := by intro h; cases h
  busy_not_done := by intro h; cases h

theorem test_witness_NarrowReadbackIsZeroExtended :
    (keyed []).Inv ∧ (keyed []).curW ≠ .w64 ∧ (failed .badW []).Inv ∧ (failed .badW []).curW = .w16 := by
  refine ⟨keyed_inv [], by decide, ?_, rfl⟩
  exact
    { err_none := by intro h; cases h
      err_some := by intro _ h; cases h
      no_table := fun _ => ⟨rfl, rfl⟩
      table := by intro h; cases h
      pend_expand := by intro _ _ _ h; cases h
      pend_decrypt := by intro h; cases h
      busy_not_done := by intro h; cases h }

theorem test_witness_DataRegisterAccess :
    (idle [wr 0x02C 1]).busy = false ∧
    (idle [wr 0x02C 1]).inputs = .port (BitVec.ofNat 12 (0x020 + 4 * (3 : Fin 4).val)) 4 (.write 1#32) :: [] ∧
    (idle [rd 0x02C]).inputs = .port (BitVec.ofNat 12 (0x020 + 4 * (3 : Fin 4).val)) 4 .read :: [] := by decide

theorem test_witness_KeyRegisterAccess :
    (idle [wr 0x1FC 1]).busy = false ∧
    (idle [wr 0x1FC 1]).inputs = .port (BitVec.ofNat 12 (0x100 + 4 * (63 : Fin 64).val)) 4 (.write 1#32) :: [] ∧
    (idle [rd 0x1FC]).inputs = .port (BitVec.ofNat 12 (0x100 + 4 * (63 : Fin 64).val)) 4 .read :: [] := by decide

theorem test_witness_WritesWhileBusy :
    (pending .clear [wr 0x010 0]).busy = true ∧ (pending .clear [wr 0x010 0]).nextAccess = some (.cmd, .write 0) ∧
    (pending .clear [wr 0x1FC 0]).nextAccess = some (.key 63, .write 0) ∧
    (pending .clear [wr 0x02C 0]).nextAccess = some (.data 3, .write 0) ∧
    (pending .clear [wr 0x008 3]).nextAccess = some (.ctrl, .write 3) ∧
    (pending .clear [wr 0x00C 10]).nextAccess = some (.status, .write 10) ∧
    (pending .clear [wr 0x014 511]).nextAccess = some (.skidx, .write 511) ∧
    (pending .clear [wr 0x01C 1]).nextAccess = some (.skdataHi, .write 1) ∧
    (pending .clear [wr 0x0FC 1]).nextAccess = some (.reserved, .write 1) := by decide

theorem test_witness_ReadsWhileBusy :
    (pending .clear [rd 0x100]).busy = true ∧ (pending .clear [rd 0x100]).nextAccess = some (.key 0, .read) ∧
    (pending .clear [rd 0x01C]).nextAccess = some (.skdataHi, .read) ∧
    (pending .clear [rd 0x00C]).nextAccess = some (.status, .read) ∧
    (pending .clear [rd 0x010]).nextAccess = some (.cmd, .read) ∧
    (pending .clear [rd 0xFFC]).nextAccess = some (.reserved, .read) := by decide

theorem test_witness_BlockLayout : 7 < Width.w64.bytes ∧ 1 < Width.w16.bytes := by decide

theorem test_witness_KeyByteOrder :
    (63 : Fin 64).val = (255 : Fin 256).val / 4 ∧ 255 ≤ 255 ∧ (254 : Fin 256).val < 255 ∧ 4 * (62 : Fin 64).val + 3 < 255 := by decide

theorem test_witness_ResetSetsEverything : State.resetNext { keyed [.reset] with pend := some .decrypt } = true := by decide

theorem test_witness_EveryStepKeepsTheInvariant :
    (keyed [wr 0x010 2]).Inv ∧ ∃ t, step (keyed [wr 0x010 2]) = .next t := 
  ⟨keyed_inv _, next_of_after (p := fun _ => true) (by decide +kernel)⟩

theorem test_witness_RotationsMoveBits : 15 < Width.w16.bits ∧ 63 < Width.w64.bits ∧ 16 % Width.w16.bits = 0 := by decide

theorem test_witness_InitSClosedForm : 510 + 1 < 2 * (255 + 1) ∧ 511 < 2 * (255 + 1) := by decide

theorem test_witness_PackLPlacesBytes : 1 < (packL .w16 [1, 2, 3]).length ∧ 15 < Width.w16.bits := by decide +kernel

theorem test_witness_MixIterations : initS .w16 1 ≠ [] ∧ packL .w16 [] ≠ [] := by
  constructor <;> intro h <;> have := congrArg List.length h <;> revert this <;> decide +kernel

theorem test_witness_DecryptBlockRounds : 1 ≤ 255 ∧ 255 ≤ 255 ∧ 1 ≤ 1 ∧ 1 ≤ 255 := by decide

theorem test_witness_EncRefRounds : 1 ≤ 255 ∧ 255 ≤ 255 ∧ 1 ≤ 1 ∧ 1 ≤ 255 := by decide

theorem test_witness_InverseLaws : 15 < Width.w16.bits ∧ 63 < Width.w64.bits := by decide

theorem test_witness_ExpandReadsOnlyTheKey :
    let s := pending (.expand .w32 1 3) [.engine]
    let s' := setKey 0 0xFF000000 { pending (.expand .w32 1 3) [] with blk := 1, skidx := 2 }
    s.pend = some (.expand .w32 1 3) ∧ s'.pend = some (.expand .w32 1 3) ∧ s.engineTurn = true ∧ s'.engineTurn = true ∧
    (∀ n : Fin 256, n.val < (3#8).toNat → s.key[n] = s'.key[n]) ∧ (∃ t, step s = .next t) ∧ ∃ t', step s' = .next t' :=
  ⟨rfl, rfl, rfl, rfl, by decide +kernel, ⟨_, step_of_engineTurn rfl⟩, ⟨_, step_of_engineTurn rfl⟩⟩

theorem test_witness_DecryptReadsOnlyTableAndBlock :
    let s := { keyed [.engine] with pend := some .decrypt, blk := 5 }
    let s' := { keyed [] with pend := some .decrypt, blk := 0xFF00000000000000000000000000000005, skidx := 1 }
    s.pend = some .decrypt ∧ s'.pend = some .decrypt ∧ s.engineTurn = true ∧ s'.engineTurn = true ∧ s.curW = s'.curW ∧
    s.curR = s'.curR ∧
    (∀ n : Fin 512, n.val < 2 * (s.curR.toNat + 1) → (s.sub[n]).setWidth s.curW.bits = (s'.sub[n]).setWidth s.curW.bits) ∧
    s.blk.extractLsb' 0 (2 * s.curW.bits) = s'.blk.extractLsb' 0 (2 * s.curW.bits) ∧ (∃ t, step s = .next t) ∧
    ∃ t', step s' = .next t' :=
  ⟨rfl, rfl, rfl, rfl, rfl, rfl, fun _ _ => rfl, by decide, ⟨_, step_of_engineTurn rfl⟩,
    ⟨_, step_of_engineTurn rfl⟩⟩

-- 95_test_vectors.md, V1: the block (0, 0) under the all-zero key encrypts to (EEDBA521, 6D8F4B15)
theorem test_witness_ExpandThenDecryptRecoversPlaintext :
    let s := { idle [] with blk := 0x6D8F4B15EEDBA521 }
    s.busy = false ∧ decodeW 1#2 = some .w32 ∧ (12#8 : BitVec 8) ≠ 0 ∧
    (s.blk.extractLsb' 0 Width.w32.bits, s.blk.extractLsb' Width.w32.bits Width.w32.bits) =
      encRef (W := .w32) (fun n => (expandKey .w32 12 (keyBytes s.key 16)).getD n 0) 12 (0, 0) := by
  refine ⟨rfl, by decide, by decide, ?_⟩
  apply Prod.ext
  · apply BitVec.eq_of_toNat_eq
    decide +kernel
  · apply BitVec.eq_of_toNat_eq
    decide +kernel

end Sys2Proof.Tests
end

section
/-! PROOFS. 10_state.md: BUSY and PEND, DONE, SKIDX, STATUS writes, DATAk, the constants, reset. -/

namespace Sys2Proof.Machine

/-! ### The operations on the fields that R27, R28 and R34 rule -/

@[simp] theorem readReg_pend (r : RegName) (s : State) : (readReg r s).2.pend = s.pend := by
  rcases readReg_state r s with h | h <;> simp [h]
@[simp] theorem readReg_done (r : RegName) (s : State) : (readReg r s).2.done = s.done := by
  rcases readReg_state r s with h | h <;> simp [h]
@[simp] theorem readReg_skidx (r : RegName) (s : State) : (readReg r s).2.skidx = s.skidx := by
  rcases readReg_state r s with h | h <;> simp [h]

@[simp] theorem afterWrite_pend (s : State) : s.afterWrite.pend = s.pend := rfl
@[simp] theorem afterWrite_done (s : State) : s.afterWrite.done = s.done := rfl
@[simp] theorem afterWrite_skidx (s : State) : s.afterWrite.skidx = s.skidx := rfl

@[simp] theorem resetStep_pend (s : State) : (resetStep s).pend = none := rfl
@[simp] theorem resetStep_done (s : State) : (resetStep s).done = false := rfl
@[simp] theorem resetStep_skidx (s : State) : (resetStep s).skidx = 0 := rfl

@[simp] theorem completionEffect_skidx (p : Pending) (s : State) : (completionEffect p s).skidx = s.skidx := by
  cases p <;> rfl

/-- The engine's turn leaves nothing pending (43_control.md R137). -/
@[simp] theorem engineStep_pend (s : State) : (engineStep s).pend = none := by
  cases h : s.pend with
  | none => rw [engineStep_idle h, h]
  | some p => rw [engineStep_pending h, finish_pend]

/-- The engine's turn sets DONE where it completes a command (10_state.md R28). -/
@[simp] theorem engineStep_done (s : State) : (engineStep s).done = (s.pend.isSome || s.done) := by
  cases h : s.pend with
  | none => simp [engineStep_idle h]
  | some p => simp [engineStep_pending h]

@[simp] theorem engineStep_skidx (s : State) : (engineStep s).skidx = s.skidx := by
  cases h : s.pend with
  | none => rw [engineStep_idle h]
  | some p => rw [engineStep_pending h, finish_skidx, completionEffect_skidx]

/-! ### Register writes -/

/-- What a register write can do: present a command, act on CTRL, STATUS or SKIDX, write a buffer register while BUSY = 0, be
discarded with BUSY while BUSY = 1, or be ignored. -/
theorem writeReg_cases {r : RegName} {v : Reg32} {s t : State} (h : writeReg r v s = .next t) :
    (r = .cmd ∧ presentCommand v s = .next t) ∨
    (r = .ctrl ∧ t = writeCtrl v s) ∨
    (r = .status ∧ t = writeStatus v s) ∨
    (r = .skidx ∧ t = writeSkidx v s) ∨
    (∃ k, r = .data k ∧ s.busy = false ∧ t = setData k v s) ∨
    (∃ k, r = .key k ∧ s.busy = false ∧ t = setKey k v s) ∨
    (((∃ k, r = .data k) ∨ ∃ k, r = .key k) ∧ s.busy = true ∧ t = raiseCmdError .busy s) ∨
    (r ∈ [.id, .cap, .skdataLo, .skdataHi, .reserved] ∧ t = s) := by
  cases r with
  | cmd => exact .inl ⟨rfl, h⟩
  | data k => cases hb : s.busy <;> simp [writeReg, writeUnlessBusy, hb] at h <;> simp [h]
  | key k => cases hb : s.busy <;> simp [writeReg, writeUnlessBusy, hb] at h <;> simp [h]
  | _ => simp [writeReg] at h; simp [h]

/-- A write to a register other than CMD leaves PEND (10_state.md R27), DONE but for a write to STATUS (R28), and IDX but for a
write to SKIDX (R34). -/
theorem writeReg_frame {r : RegName} {v : Reg32} {s t : State} (hc : r ≠ .cmd) (h : writeReg r v s = .next t) :
    t.pend = s.pend ∧ (r ≠ .status → t.done = s.done) ∧ (r ≠ .skidx → t.skidx = s.skidx) := by
  rcases writeReg_cases h with ⟨hr, -⟩ | ⟨-, rfl⟩ | ⟨hr, rfl⟩ | ⟨hr, rfl⟩ | ⟨k, -, -, rfl⟩ | ⟨k, -, -, rfl⟩ | ⟨-, -, rfl⟩ |
    ⟨-, rfl⟩
  · exact absurd hr hc
  all_goals simp_all

/-! ### Register reads -/

/-- A 32-bit read of any register but a buffer register while BUSY = 1 gives the register's defined value. -/
theorem step_port_read_defined {s : State} {off : BitVec 12} {rest : List Input} (hl : accessLegal off 4 = true)
    (h : s.inputs = .port off 4 .read :: rest) (hd : (s.busy && (regAt off).isBuffer) = false) :
    step s = .next { s with inputs := rest, resp := .data (s.regValue (regAt off)) } := by
  rw [step_port_read hl h, hd]
  rfl

/-! ### Command presentation -/

/-- A presented word becomes the pending command and clears DONE where the issue checks accept it, and leaves PEND and DONE
otherwise (43_control.md R136); it never changes IDX. -/
theorem presentCommand_accepts {v : Reg32} {s t : State} (hacc : s.nextAccess = some (.cmd, .write v))
    (h : presentCommand v s.afterWrite = .next t) :
    (t.pend = if (s.accepts v).isSome then s.accepts v else s.pend) ∧
    (t.done = if (s.accepts v).isSome then false else s.done) ∧ t.skidx = s.skidx := by
  rcases presentCommand_cases v s t hacc h with ⟨hb, rfl⟩ | ⟨-, ha, -, rfl | ⟨c, -, rfl⟩⟩ | ⟨-, ha, -, c, -, rfl⟩ |
    ⟨-, -, p, ha, -, -, rfl⟩ | ⟨-, -, W, r, b, ha, -, rfl⟩
  · simp [accepts_of_busy hb]
  all_goals simp [ha]

/-! ### BUSY, PEND and DONE -/

/-- Settles O17: the kinds of step, and for a write to CMD what the issue checks answer. -/
theorem busyChangesOnlyAsRuled : Obligations.BusyChangesOnlyAsRuled := by
  intro s t h
  rcases step_cases_apart h with ⟨r, ha, he, hr, rfl⟩ | ⟨r, v, ha, he, hr, hw⟩ | ⟨he, -, -, rfl⟩ | ⟨hr, -, -, rfl⟩ |
    ⟨ha, he, hr, rfl⟩
  · simp [ha, he, hr]
  · by_cases hc : r = .cmd
    · subst hc
      obtain ⟨hpend, -, -⟩ := presentCommand_accepts ha hw
      simpa [ha, he, hr] using hpend
    · obtain ⟨hpend, -, -⟩ := writeReg_frame hc hw
      simpa [ha, he, hr, hc] using hpend
  · simp [he]
  · simp [hr]
  · simp [ha, he, hr]

/-- Settles O18: the kinds of step; among writes only CMD and STATUS reach DONE. -/
theorem doneChangesOnlyAsRuled : Obligations.DoneChangesOnlyAsRuled := by
  intro s t h
  rcases step_cases_apart h with ⟨r, ha, he, hr, rfl⟩ | ⟨r, v, ha, he, hr, hw⟩ | ⟨he, ha, hr, rfl⟩ | ⟨hr, -, -, rfl⟩ |
    ⟨ha, he, hr, rfl⟩
  · simp [State.completing, ha, he, hr]
  · by_cases hc : r = .cmd
    · subst hc
      obtain ⟨-, hdone, -⟩ := presentCommand_accepts ha hw
      simpa [State.completing, ha, he, hr] using hdone
    · by_cases hs : r = .status
      · subst hs
        obtain rfl : writeStatus v s.afterWrite = t := by simpa [writeReg] using hw
        simpa [State.completing, ha, he, hr] using Bool.and_comm _ _
      · obtain ⟨-, hdone, -⟩ := writeReg_frame hc hw
        simpa [State.completing, ha, he, hr, hc, hs] using hdone hs
  · cases hp : s.pend <;> simp [State.completing, ha, he, hr, hp]
  · simp [hr]
  · simp [State.completing, ha, he, hr]

/-! ### SKIDX -/

/-- A step changes SKIDX only by a write to it, or by reset (10_state.md R34). -/
theorem step_skidx {s t : State} (h : step s = .next t) (hr : s.resetNext = false)
    (hw : ∀ v : Reg32, s.nextAccess ≠ some (.skidx, .write v)) : t.skidx = s.skidx := by
  rcases step_cases_apart h with ⟨r, -, -, -, rfl⟩ | ⟨r, v, ha, -, -, hwr⟩ | ⟨-, -, -, rfl⟩ | ⟨hr', -, -, -⟩ | ⟨-, -, -, rfl⟩
  · simp
  · by_cases hc : r = .cmd
    · subst hc
      obtain ⟨-, -, hskidx⟩ := presentCommand_accepts ha hwr
      exact hskidx
    · obtain ⟨-, -, hskidx⟩ := writeReg_frame hc hwr
      exact hskidx fun hs => hw v (hs ▸ ha)
  · simp
  · simp [hr] at hr'
  · simp

/-- The 9 bits of IDX, zero-extended, are the low 9 bits of the value written. -/
theorem setWidth_extractLsb'_nine (v : Reg32) : (v.extractLsb' 0 9).setWidth 32 = v &&& 0x1FF#32 := by
  have hand : v.toNat &&& 511 = v.toNat % 512 := Nat.and_two_pow_sub_one_eq_mod v.toNat 9
  have hmod : v.toNat % 512 % 4294967296 = v.toNat % 512 := by omega
  apply BitVec.eq_of_toNat_eq
  simp [hand, hmod]

/-- Settles O36: the write, then the read of the state it leaves; and the frame of SKIDX. -/
theorem skidxWriteThenRead : Obligations.SkidxWriteThenRead := by
  refine ⟨fun s v rest h => ?_, fun s t h hne => ?_, fun s t h hr => ?_⟩
  · have hwrite := step_port_write (by decide) h
    have hread := step_port_read_defined
      (s := writeSkidx v { s with inputs := .port 0x014#12 4 .read :: rest, resp := .written }) (by decide) rfl
      (Bool.and_false _)
    rw [run_succ_of_next hwrite, run_succ_of_next hread, run_zero, ← setWidth_extractLsb'_nine]
    rfl
  · by_contra hnot
    push Not at hnot
    exact hne (step_skidx h (by simpa using hnot.1) hnot.2)
  · obtain rfl : resetStep (takeInput s) = t := by simpa [step_of_resetNext hr] using h
    rfl

/-! ### DATAk -/

theorem regAt_data : ∀ k : Fin 4, regAt (BitVec.ofNat 12 (0x020 + 4 * k.val)) = .data k := by decide

theorem accessLegal_data : ∀ k : Fin 4, accessLegal (BitVec.ofNat 12 (0x020 + 4 * k.val)) 4 = true := by decide

/-- The slices of BLK after a write to DATAk: its own is the value, the other three are as before (10_state.md R36). -/
theorem setData_slice (k j : Fin 4) (v : Reg32) (s : State) :
    (setData k v s).blk.extractLsb' (32 * j.val) 32 = if j = k then v else s.blk.extractLsb' (32 * j.val) 32 := by
  rw [setData_blk]
  split
  · next hjk => rw [hjk, extract_setSlice_same _ _ _ (by omega)]
  · next hjk => exact extract_setSlice_apart _ _ _ _ _ (by omega) (by omega)

/-- Settles O39: the write is setData, the read is that register's value. -/
theorem dataRegisterAccess : Obligations.DataRegisterAccess := by
  intro s k rest hb
  refine ⟨fun v h => ⟨setData k v { s with inputs := rest, resp := .written }, ?_, rfl, fun j => setData_slice k j v _⟩,
    fun h => ?_⟩
  · have hb' : State.busy { s with inputs := rest, resp := .written } = false := hb
    rw [step_port_write (accessLegal_data k) h, regAt_data, writeReg, writeUnlessBusy, hb']
    rfl
  · rw [step_port_read_defined (accessLegal_data k) h (by rw [hb, Bool.false_and]), regAt_data]
    rfl

/-! ### Reset -/

/-- What reset keeps, the inputs and the count of free values, no register shows. -/
theorem resetStep_regValue (s : State) (r : RegName) : (resetStep s).regValue r = State.reset.regValue r := by
  cases r <;> rfl

/-- Every register but ID and CAP reads 0 after a reset (10_state.md R44). -/
theorem resetStep_regValue_eq_zero (s : State) {r : RegName} (hid : r ≠ .id) (hcap : r ≠ .cap) :
    (resetStep s).regValue r = 0 := by
  rw [resetStep_regValue]
  cases r with
  | id => exact absurd rfl hid
  | cap => exact absurd rfl hcap
  | key k => simp [State.regValue, State.keyReg, State.reset]
  | data k => simp [State.regValue, State.dataReg, State.reset]
  | _ => decide

/-- Settles O45: the step is resetStep, whatever is pending. -/
theorem resetSetsEverything : Obligations.ResetSetsEverything := by
  intro s hr
  refine ⟨_, step_of_resetNext hr, rfl, rfl, rfl, rfl, rfl, rfl, rfl, rfl, rfl, rfl, rfl, ?key, ?sub, rfl, ?words, rfl, rfl,
    rfl, rfl, rfl, rfl, rfl, ?registers⟩
  case registers =>
    intro r
    split
    · rfl
    · rfl
    · next hid hcap => exact resetStep_regValue_eq_zero _ hid hcap
  all_goals
    intro n
    exact Vector.getElem_replicate _

/-! ### STATUS, ID and CAP -/

/-- A write to STATUS is one record update (10_state.md R32). -/
theorem writeStatus_eq (v : Reg32) (s : State) :
    writeStatus v s = { s with
      done := s.done && !v.getLsbD 1
      errv := s.errv && !v.getLsbD 3
      err := if v.getLsbD 3 = true then .none else s.err } := by
  apply State.ext_fields <;> simp

/-- Settles O26: the port hands the write to writeStatus, whatever BUSY is. -/
theorem statusWriteClears : Obligations.StatusWriteClears := by
  intro s v rest h
  rw [step_port_write (by decide) h]
  exact congrArg Host.Outcome.next (writeStatus_eq v _)

/-- Settles O31: ID and CAP are read-only and no buffer registers, so BUSY plays no part. -/
theorem idAndCapAreConstant : Obligations.IdAndCapAreConstant := by
  intro s off c rest hm
  obtain ⟨rfl, rfl⟩ | ⟨rfl, rfl⟩ : (off = 0x000#12 ∧ c = 0x52433544#32) ∨ (off = 0x004#12 ∧ c = 0x00FFFF07#32) := by
    simpa using hm
  all_goals
    refine ⟨fun h => ?_, fun v h => step_port_write (by decide) h⟩
    exact step_port_read_defined (by decide) h (Bool.and_false _)

end Sys2Proof.Machine
end

section
/-! PROOFS. 30_encoding.md: the words that are rejected with ILLEGAL_OP, RSVD_NZ, BAD_W and BAD_R (R77, R78). -/

namespace Sys2Proof

/-! ### The words that are no command, by their fields -/

/-- OP alone makes a word illegal: the bits above it play no part (30_encoding.md R77). -/
theorem decodeWord_of_op_ge_five {v : BitVec 32} (hop : 5 ≤ (fieldOp v).toNat) : decodeWord v = .illegalOp := by
  unfold decodeWord
  split
  iterate 5 omega
  rfl

/-- A command without operands has no bit above OP (R73). -/
theorem decodeWord_of_rest_ne_zero {v : BitVec 32} (hop : (fieldOp v).toNat ∈ [0, 1, 3, 4]) (hrest : fieldRest v ≠ 0) :
    decodeWord v = .reservedBits := by
  have hbare : ∀ i, decodeBare v i = .reservedBits := fun _ => if_neg hrest
  obtain h | h | h | h : (fieldOp v).toNat = 0 ∨ (fieldOp v).toNat = 1 ∨ (fieldOp v).toNat = 3 ∨ (fieldOp v).toNat = 4 := by
    simpa using hop
  all_goals
    unfold decodeWord
    rw [h]
    exact hbare _

/-- A word with OP = 2 is read as an EXPAND. -/
theorem decodeWord_of_op_two {v : BitVec 32} (hop : (fieldOp v).toNat = 2) : decodeWord v = decodeExpand v := by
  unfold decodeWord
  simp only [hop]

end Sys2Proof

namespace Sys2Proof.Machine

section
variable {v : Reg32} {s : State}

/-! ### Their presentation with no command pending -/

theorem rejectWord_of_not_busy (reject : State → State) (hb : s.busy = false) : rejectWord reject s = reject s := by
  simp [rejectWord, hb]

theorem presentCommand_illegalOp (hd : decodeWord v = .illegalOp) (hb : s.busy = false) :
    presentCommand v s = .next (s.withError .illegalOp) := by
  rw [presentCommand, hd, ← raiseCmdError_eq]
  exact congrArg _ (rejectWord_of_not_busy _ hb)

theorem presentCommand_reservedBits (hd : decodeWord v = .reservedBits) (hb : s.busy = false) :
    presentCommand v s = .next (s.withError .rsvdNz) := by
  rw [presentCommand, hd, ← raiseCmdError_eq]
  exact congrArg _ (rejectWord_of_not_busy _ hb)

theorem presentCommand_reservedBitsExpand (hd : decodeWord v = .reservedBitsExpand) (hb : s.busy = false) :
    presentCommand v s = .next (State.withError { s with skv := false, curW := .w16, curR := 0 } .rsvdNz) := by
  rw [presentCommand, hd, ← rejectExpand_eq]
  exact congrArg _ (rejectWord_of_not_busy _ hb)

theorem presentCommand_command {i : Instr} (hd : decodeWord v = .command i) : presentCommand v s = exec i s := by
  rw [presentCommand, hd]

/-! ### An EXPAND with a field value that names nothing -/

/-- A width select that names no width is BAD_W, whatever R and B are (60_exceptions.md R153). -/
theorem exec_expand_badW {wsel : BitVec 2} (r b : BitVec 8) (hb : s.busy = false) (hW : decodeW wsel = none) :
    exec (.expand wsel r b) s = .next (State.withError { s with skv := false, curW := .w16, curR := 0 } .badW) := by
  simp [exec, execExpand, hb, hW, rejectExpand_eq]

/-- With a width named, a round count of 0 is BAD_R. -/
theorem exec_expand_badR {wsel : BitVec 2} (b : BitVec 8) (hb : s.busy = false) (hW : decodeW wsel ≠ none) :
    exec (.expand wsel 0 b) s = .next (State.withError { s with skv := false, curW := .w16, curR := 0 } .badR) := by
  obtain ⟨W, hW⟩ := Option.ne_none_iff_exists'.mp hW
  simp [exec, execExpand, hb, hW, rejectExpand_eq]

end

/-! ### The obligations -/

/-- Settles O7: OP in 5..15 alone decides the decoding, and an idle block records the error of such a word. -/
theorem illegalOpcodeRejected : Obligations.IllegalOpcodeRejected := by
  intro s v hop hb
  exact presentCommand_illegalOp (decodeWord_of_op_ge_five hop) hb

/-- Settles O8: reserved bits are found where the word is decoded, WSEL = 3 and R = 0 where the decoded EXPAND is issued. -/
theorem reservedAndIllegalFieldsRejected : Obligations.ReservedAndIllegalFieldsRejected := by
  intro s v hb
  have expand : (fieldOp v).toNat = 2 → fieldRsv v = 0 →
      presentCommand v s = exec (.expand (fieldWsel v) (fieldR v) (fieldB v)) s := fun hop hrsv =>
    presentCommand_command ((decodeWord_of_op_two hop).trans (if_pos hrsv))
  refine ⟨fun hop hrest => ?rest, fun hop hrsv => ?rsv, fun hop hrsv hwsel => ?wsel, fun hop hrsv hwsel hr => ?rounds⟩
  case rest => exact presentCommand_reservedBits (decodeWord_of_rest_ne_zero hop hrest) hb
  case rsv => exact presentCommand_reservedBitsExpand ((decodeWord_of_op_two hop).trans (if_neg hrsv)) hb
  case wsel => exact (expand hop hrsv).trans (exec_expand_badW _ _ hb ((decodeW_eq_none _).mpr hwsel))
  case rounds =>
    have hr : fieldR v = 0 := hr
    rw [expand hop hrsv, hr]
    exact exec_expand_badR _ hb (mt (decodeW_eq_none _).mp hwsel)

end Sys2Proof.Machine
end

section
/-! PROOFS. Word arithmetic (40_word_ops.md). -/

namespace Sys2Proof.Machine

variable {W : Width}

/-- The sum of two words is their sum as numbers, reduced modulo 2^W (R91). -/
theorem addW_toNat (x y : Word W) : (addW x y).toNat = (x.toNat + y.toNat) % 2 ^ W.bits := BitVec.toNat_add x y

/-- A difference that would be negative is taken up by one 2^W, which the reduction modulo 2^W drops (R91). -/
theorem subW_toNat (x y : Word W) :
    ((subW x y).toNat : Int) = ((x.toNat : Int) - y.toNat) % ((2 ^ W.bits : Nat) : Int) := by
  have hy : y.toNat ≤ 2 ^ W.bits := y.isLt.le
  calc ((subW x y).toNat : Int)
      = ((2 ^ W.bits - y.toNat + x.toNat : Nat) : Int) % ((2 ^ W.bits : Nat) : Int) := by
        rw [subW, BitVec.toNat_sub, Int.natCast_mod]
    _ = ((x.toNat : Int) - y.toNat + ((2 ^ W.bits : Nat) : Int)) % ((2 ^ W.bits : Nat) : Int) := by
        rw [Nat.cast_add, Nat.cast_sub hy]
        congr 1
        ring
    _ = ((x.toNat : Int) - y.toNat) % ((2 ^ W.bits : Nat) : Int) := Int.add_emod_right _ _

/-- Settles O48: BitVec's sum, and BitVec's difference read as an integer. -/
theorem addSubWrapModulo : Obligations.AddSubWrapModulo :=
  fun _ x y => ⟨addW_toNat x y, subW_toNat x y⟩

end Sys2Proof.Machine
end

section
/-! PROOFS. 41_key_schedule.md: PackL, Mix and ExpandKey (R103 to R105), KEYCLR (R110) and EXPAND (R111). -/

namespace Sys2Proof

/-! ### The word of an EXPAND -/

/-- Every field of an EXPAND's word holds the operand it was made from, and the reserved bits are 0 (30_encoding.md R72). -/
theorem fields_encode_expand (wsel : BitVec 2) (r b : BitVec 8) :
    fieldOp (encode (.expand wsel r b)) = 2 ∧ fieldRsv (encode (.expand wsel r b)) = 0 ∧
    fieldWsel (encode (.expand wsel r b)) = wsel ∧ fieldR (encode (.expand wsel r b)) = r ∧
    fieldB (encode (.expand wsel r b)) = b := by
  refine ⟨?_, ?_, ?_, ?_, ?_⟩
  all_goals
    apply BitVec.eq_of_getLsbD_eq
    intro i hi
    interval_cases i <;> simp [encode, fieldOp, fieldRsv, fieldWsel, fieldR, fieldB]

/-- The decoder finds the operands of an EXPAND in its word, whatever they are (R72, R76). -/
theorem decodeWord_encode_expand (wsel : BitVec 2) (r b : BitVec 8) :
    decodeWord (encode (.expand wsel r b)) = .command (.expand wsel r b) := by
  obtain ⟨hop, hrsv, hwsel, hr, hb⟩ := fields_encode_expand wsel r b
  rw [decodeWord_of_op_two (by rw [hop]; rfl), decodeExpand, if_pos hrsv, hwsel, hr, hb]

end Sys2Proof

namespace Sys2Proof.Machine

variable {W : Width}

/-! ### PackL -/

/-- A byte shifted to place q of a word shows in that place of the word and nowhere else. -/
theorem getLsbD_byte_shiftLeft (x : Byte) (q : Nat) {p : Nat} (hp : p < W.bits) :
    (x.setWidth W.bits <<< (8 * q)).getLsbD p = (decide (p / 8 = q) && x.getLsbD (p % 8)) := by
  simp only [BitVec.getLsbD_shiftLeft, BitVec.getLsbD_setWidth, hp, decide_true, Bool.true_and]
  rcases Nat.lt_trichotomy (p / 8) q with h | rfl | h
  · simp [show p < 8 * q by omega, show p / 8 ≠ q by omega]
  · simp [show ¬ p < 8 * (p / 8) by omega, show p - 8 * (p / 8) = p % 8 by omega, show p % 8 < W.bits by omega]
  · simp [show p / 8 ≠ q by omega, BitVec.getLsbD_of_ge x (p - 8 * q) (by omega)]

/-- One turn of PackL's loop adds key byte k at its place, byte k of the words read as one row of bytes (R103). -/
theorem packByte_getLsbD (l : List (Word W)) (x : Byte) (k : Nat) {m p : Nat} (hm : m < l.length) (hp : p < W.bits) :
    ((packByte W l (x, k)).getD m 0).getLsbD p =
      ((l.getD m 0).getLsbD p || (decide (m * W.bytes + p / 8 = k) && x.getLsbD (p % 8))) := by
  have hplace : m * W.bytes + p / 8 = k ↔ k / W.bytes = m ∧ p / 8 = k % W.bytes := by
    have hlt : p / 8 < W.bytes := by have := W.bits_eq; omega
    rw [eq_comm (a := p / 8), Nat.div_mod_unique W.bytes_pos, Nat.mul_comm, Nat.add_comm]
    simp [hlt]
  by_cases hk : k / W.bytes = m
  · simp [packByte, List.getD_eq_getElem?_getD, hm, hk, hplace, getLsbD_byte_shiftLeft x _ hp]
  · simp [packByte, List.getD_eq_getElem?_getD, hm, hk, hplace]

/-- The bits of a list's bytes when one more byte is put at its end. -/
theorem getD_concat_getLsbD (key : List Byte) (x : Byte) (i q : Nat) :
    ((key ++ [x]).getD i 0).getLsbD q = ((key.getD i 0).getLsbD q || (decide (i = key.length) && x.getLsbD q)) := by
  rcases Nat.lt_trichotomy i key.length with h | rfl | h
  · simp [List.getD_eq_getElem?_getD, List.getElem?_append_left h, h.ne]
  · simp
  · simp [List.getD_eq_getElem?_getD, List.getElem?_eq_none, h.ne', h.le, show key.length + 1 ≤ i by omega]

/-- PackL's loop, run on n zero words, puts every bit of the key bytes in its place, and no other bit (R103). -/
theorem foldl_packByte_getLsbD (n : Nat) (key : List Byte) {m p : Nat} (hm : m < n) (hp : p < W.bits) :
    ((key.zipIdx.foldl (packByte W) (List.replicate n 0)).getD m 0).getLsbD p =
      (key.getD (m * W.bytes + p / 8) 0).getLsbD (p % 8) := by
  induction key using List.reverseRecOn with
  | nil => simp [hm]
  | append_singleton key x ih =>
    rw [List.zipIdx_append, List.foldl_append, getD_concat_getLsbD, ← ih]
    simp only [List.zipIdx_singleton, List.foldl_cons, List.foldl_nil, Nat.zero_add]
    exact packByte_getLsbD _ x _ (by simpa [length_foldl_packByte] using hm) hp

/-- Settles O52: the number of words is kept by every turn of PackL's loop, and the places of the bits follow byte by byte. -/
theorem packLPlacesBytes : Obligations.PackLPlacesBytes := by
  intro W key
  refine ⟨?_, fun m p hm hp => foldl_packByte_getLsbD _ key (by rwa [← length_packL]) hp⟩
  rw [length_packL, keyWordCount, Nat.add_sub_assoc W.bytes_pos]

/-! ### Mix and ExpandKey -/

/-- The variables of Mix before its first iteration (R104). -/
def mixStart (s l : List (Word W)) : MixVars W := { s := s, l := l, a := 0, b := 0, i := 0, j := 0 }

theorem mix_eq_mixIter (s l : List (Word W)) : mix s l = mixIter (3 * max s.length l.length) (mixStart s l) := rfl

/-- Settles O53: the run is mixIter from R104's start, and its indices are k modulo the two lengths. -/
theorem mixIterations : Obligations.MixIterations := by
  refine ⟨fun W r key => rfl, fun W s l _ _ =>
    ⟨fun k => mixIter k (mixStart s l), rfl, rfl, rfl, rfl, fun k => ?_, mix_eq_mixIter s l⟩⟩
  obtain ⟨-, -, hi, hj⟩ := mixIter_indices k (mixStart s l) rfl rfl
  have hi : k % s.length = (mixIter k (mixStart s l)).i := hi.symm
  have hj : k % l.length = (mixIter k (mixStart s l)).j := hj.symm
  simp only [mixIter_succ, hi, hj]
  exact ⟨rfl, rfl, rfl, rfl⟩

/-! ### The engine's turn right after acceptance -/

/-- The engine's turn with the command p pending is the completion of p, the turn taken off the inputs (43_control.md R137). -/
theorem step_engineNext_of_pend {s : State} {p : Pending} (rest : List Input) (h : s.pend = some p) :
    step (s.engineNext rest) = .next (finish (completionEffect p { s with inputs := rest })) := by
  have hturn : (s.engineNext rest).engineTurn = true := by simp [State.engineTurn, State.engineNext]
  have hpend : (takeInput (s.engineNext rest)).pend = some p := h
  rw [step_of_engineTurn hturn, engineStep_pending hpend]
  rfl

/-! ### KEYCLR -/

/-- KEYCLR is accepted whenever no command is pending (43_control.md R136). -/
theorem exec_keyclr_idle {s : State} (hb : s.busy = false) :
    exec .keyclr s = .next { s with pend := some .keyclr, done := false } := by
  simp [exec, execKeyclr, hb, accept]

/-- Settles O12: the accepted KEYCLR is pending, and the engine's turn completes it with keyclrEffect. -/
theorem keyclrCompletes : Obligations.KeyclrCompletes := by
  intro s rest
  refine ⟨fun hb => ⟨exec_keyclr_idle hb, presentCommand_command (by decide), _, step_engineNext_of_pend rest rfl, rfl,
    fun n => ?zeroed, rfl⟩, exec_busy .keyclr s, fun v hb hop hrest => ?rest⟩
  case zeroed => exact Vector.getElem_replicate _
  case rest =>
    have hop : fieldOp v = 1 := hop
    exact presentCommand_reservedBits (decodeWord_of_rest_ne_zero (by simp [hop]) hrest) hb

/-! ### EXPAND -/

/-- S after a table is stored: the table's words zero-extended, and 0 past them (R111). -/
theorem storeTable_getElem (table : List (Word W)) (n : Fin 512) :
    (storeTable table)[n] = if n.val < table.length then (table.getD n.val 0).setWidth 64 else 0 := by
  have hentry : (storeTable table)[n] = (table.getD n.val 0).setWidth 64 := by simp [storeTable]
  rw [hentry]
  split
  · rfl
  · next h => simp [List.getElem?_eq_none (Nat.le_of_not_lt h)]

/-- An EXPAND of a legal width and round count is accepted, and drops the table in force (43_control.md R136). -/
theorem exec_expand_idle {s : State} {wsel : BitVec 2} {r : BitVec 8} (b : BitVec 8) (hb : s.busy = false)
    (hW : decodeW wsel = some W) (hr : r ≠ 0) :
    exec (.expand wsel r b) s =
      .next { s with pend := some (.expand W r b), done := false, skv := false, curW := .w16, curR := 0 } := by
  simp only [exec, execExpand, hb, hW, if_neg hr]
  rfl

/-- Settles O13: the accepted EXPAND is pending, the engine's turn completes it with expandEffect, and the table stored is
ExpandKey's, 2(r+1) words long. -/
theorem expandCompletes : Obligations.ExpandCompletes := by
  intro s wsel r b rest
  refine ⟨fun W hb hW hr => ⟨exec_expand_idle b hb hW hr, presentCommand_command (decodeWord_encode_expand wsel r b), _,
      step_engineNext_of_pend rest rfl, rfl, rfl, length_expandKey W _ _, fun n => ?table⟩,
    exec_busy _ s, exec_expand_badW r b, fun hb hW hr => ?rounds, fun v hb hop hrsv => ?rsv⟩
  case table =>
    rw [← length_expandKey W r.toNat (keyBytes s.key b.toNat)]
    exact storeTable_getElem _ n
  case rounds =>
    subst hr
    exact exec_expand_badR b hb hW
  case rsv =>
    have hop : fieldOp v = 2 := hop
    have hd : decodeWord v = .reservedBitsExpand := (decodeWord_of_op_two (by rw [hop]; rfl)).trans (if_neg hrsv)
    exact presentCommand_reservedBitsExpand hd hb

end Sys2Proof.Machine
end

section
/-! PROOFS. 42_decrypt.md: DecryptBlock (R120) and DECRYPT (R124). -/

namespace Sys2Proof.Machine

variable {W : Width}

/-! ### DecryptBlock -/

/-- The rounds as a run of blocks counted down: run i is the block after rounds r, ..., i+1, and round i+1 makes it from
run (i+1) (R120). -/
theorem decryptRounds_run (S : Nat → Word W) (r : Nat) (ab : Word W × Word W) :
    ∃ run : Nat → Word W × Word W,
      run r = ab ∧ (∀ i < r, run i = decryptRound S (i + 1) (run (i + 1))) ∧ decryptRounds S r ab = run 0 := by
  induction r generalizing ab with
  | zero => exact ⟨fun _ => ab, rfl, by simp, rfl⟩
  | succ r ih =>
    obtain ⟨run, hstart, hround, hend⟩ := ih (decryptRound S (r + 1) ab)
    refine ⟨Function.update run (r + 1) ab, by simp, fun i hi => ?_, by simpa [decryptRounds] using hend⟩
    rcases Nat.lt_succ_iff_lt_or_eq.mp hi with hlt | rfl
    · simpa [hi.ne, hlt.ne] using hround i hlt
    · simpa using hstart

/-- Settles O58: A and B are the two words of the run of the rounds. -/
theorem decryptBlockRounds : Obligations.DecryptBlockRounds := by
  intro W S r ab
  obtain ⟨run, hstart, hround, hend⟩ := decryptRounds_run S r ab
  refine ⟨fun i => (run i).1, fun i => (run i).2, congrArg Prod.fst hstart, congrArg Prod.snd hstart, fun i hi hir => ?_,
    by rw [decryptBlock, hend]⟩
  obtain ⟨i, rfl⟩ := Nat.exists_eq_add_of_le' hi
  simp only [Nat.add_sub_cancel, hround i hir]
  exact ⟨_, _, rfl, rfl, rfl, rfl⟩

/-! ### DECRYPT -/

/-- DECRYPT is accepted when no command is pending and a table is in force (43_control.md R136). -/
theorem exec_decrypt_idle {s : State} (hb : s.busy = false) (hk : s.skv = true) :
    exec .decrypt s = .next { s with pend := some .decrypt, done := false } := by
  simp [exec, execDecrypt, hb, hk, accept]

/-- Without a table DECRYPT is NO_KEY (60_exceptions.md R153). -/
theorem exec_decrypt_noKey {s : State} (hb : s.busy = false) (hk : s.skv = false) :
    exec .decrypt s = .next (s.withError .noKey) := by
  simp [exec, execDecrypt, hb, hk, raiseCmdError_eq]

/-- Writing a block and reading its two words gives the block written. -/
theorem extract_setBlock (W : Width) (blk : BitVec 128) (ab : Word W × Word W) :
    ((setBlock W blk ab).extractLsb' 0 W.bits, (setBlock W blk ab).extractLsb' W.bits W.bits) = ab :=
  Prod.ext (blockA_setBlock W blk ab) (blockB_setBlock W blk ab)

/-- No bit at or above place 2W changes when a block is written; past bit 127 there is none (10_state.md R40). -/
theorem setBlock_getLsbD_above (blk : BitVec 128) (ab : Word W × Word W) {k : Nat} (hk : 2 * W.bits ≤ k) :
    (setBlock W blk ab).getLsbD k = blk.getLsbD k := by
  by_cases hlt : k < 128
  · exact setBlock_above W blk ab k hk hlt
  · rw [BitVec.getLsbD_of_ge _ k (by omega), BitVec.getLsbD_of_ge _ k (by omega)]

/-- Settles O14: the accepted DECRYPT is pending, and the engine's turn completes it with decryptEffect, which writes the
decrypted block with setBlock. -/
theorem decryptCompletes : Obligations.DecryptCompletes := by
  intro s rest
  refine ⟨fun hb hk => ⟨exec_decrypt_idle hb hk, presentCommand_command (by decide), _, step_engineNext_of_pend rest rfl, rfl,
    rfl, extract_setBlock s.curW s.blk _, fun k hk => setBlock_getLsbD_above s.blk _ hk⟩, exec_busy .decrypt s,
    exec_decrypt_noKey, fun v hb hop hrest => ?rest⟩
  case rest =>
    have hop : fieldOp v = 3 := hop
    exact presentCommand_reservedBits (decodeWord_of_rest_ne_zero (by simp [hop]) hrest) hb

end Sys2Proof.Machine
end

section
/-! PROOFS. 43_control.md: the issue checks (R136), NOP (R138), CLEAR (R139) and recorded errors (R142). -/

namespace Sys2Proof.Machine

section
variable {v : Reg32} {s : State}

/-! ### The answer of each of R136's checks -/

theorem issueChecks_busy (v : Reg32) (hb : s.busy = true) : issueChecks v s = s.withError .busy := if_pos hb

theorem issueChecks_illegalOp (hb : s.busy = false) (hop : 5 ≤ (v.extractLsb' 0 4).toNat) :
    issueChecks v s = s.withError .illegalOp := by
  simp only [issueChecks, hb, if_pos hop]
  rfl

theorem issueChecks_reservedBits (hb : s.busy = false) (hop : v.extractLsb' 0 4 ∈ [0#4, 1#4, 3#4, 4#4])
    (hrest : v.extractLsb' 4 28 ≠ 0#28) : issueChecks v s = s.withError .rsvdNz := by
  simp only [List.mem_cons, List.not_mem_nil, or_false] at hop
  rcases hop with hop | hop | hop | hop <;> simp [issueChecks, hb, hop, hrest]

theorem issueChecks_expand_reservedBits (hb : s.busy = false) (hop : v.extractLsb' 0 4 = 2#4)
    (hrsv : v.extractLsb' 22 10 ≠ 0#10) :
    issueChecks v s = State.withError { s with skv := false, curW := .w16, curR := 0 } .rsvdNz := by
  simp [issueChecks, hb, hop, hrsv, killTable]

theorem issueChecks_expand_badW (hb : s.busy = false) (hop : v.extractLsb' 0 4 = 2#4) (hrsv : v.extractLsb' 22 10 = 0#10)
    (hW : decodeW (v.extractLsb' 4 2) = none) :
    issueChecks v s = State.withError { s with skv := false, curW := .w16, curR := 0 } .badW := by
  simp [issueChecks, hb, hop, hrsv, (decodeW_eq_none _).mp hW, killTable]

theorem issueChecks_expand_badR {W : Width} (hb : s.busy = false) (hop : v.extractLsb' 0 4 = 2#4)
    (hrsv : v.extractLsb' 22 10 = 0#10) (hW : decodeW (v.extractLsb' 4 2) = some W) (hr : v.extractLsb' 6 8 = 0#8) :
    issueChecks v s = State.withError { s with skv := false, curW := .w16, curR := 0 } .badR := by
  have hwsel : v.extractLsb' 4 2 ≠ 3#2 := fun h => by simp [(decodeW_eq_none _).mpr h] at hW
  simp [issueChecks, hb, hop, hrsv, hwsel, hr, killTable]

theorem issueChecks_expand_accepted {W : Width} (hb : s.busy = false) (hop : v.extractLsb' 0 4 = 2#4)
    (hrsv : v.extractLsb' 22 10 = 0#10) (hW : decodeW (v.extractLsb' 4 2) = some W) (hr : v.extractLsb' 6 8 ≠ 0#8) :
    issueChecks v s =
      { s with
        pend := some (.expand W (v.extractLsb' 6 8) (v.extractLsb' 14 8)), done := false
        skv := false, curW := .w16, curR := 0 } := by
  have hwsel : v.extractLsb' 4 2 ≠ 3#2 := fun h => by simp [(decodeW_eq_none _).mpr h] at hW
  simp [issueChecks, hb, hop, hrsv, hwsel, hr, hW]

/-! ### Presentation while a command is pending; NOP and CLEAR while none is -/

/-- While a command is pending every word is rejected with BUSY, whatever else is wrong with it (60_exceptions.md R153). -/
theorem presentCommand_busy (v : Reg32) (hb : s.busy = true) : presentCommand v s = .next (s.withError .busy) := by
  cases hd : decodeWord v with
  | command i => rw [presentCommand_command hd, exec_busy i s hb]
  | _ => simp [presentCommand, hd, rejectWord, hb, raiseCmdError_eq]

/-- NOP is accepted with no effect when no command is pending (43_control.md R138). -/
theorem exec_nop_idle (hb : s.busy = false) : exec .nop s = .next s := by
  simp [exec, execNop, hb]

/-- CLEAR is accepted whenever no command is pending (43_control.md R139). -/
theorem exec_clear_idle (hb : s.busy = false) :
    exec .clear s = .next { s with pend := some .clear, done := false } := by
  simp [exec, execClear, hb, accept]

/-! ### Presentation follows the checks -/

/-- The checks that R136 makes of an EXPAND's fields are those that exec makes of its operands. -/
theorem exec_expand_eq_issueChecks (hb : s.busy = false) (hop : fieldOp v = 2#4) (hrsv : fieldRsv v = 0) :
    exec (.expand (fieldWsel v) (fieldR v) (fieldB v)) s = .next (issueChecks v s) := by
  cases hW : decodeW (fieldWsel v) with
  | none => rw [exec_expand_badW _ _ hb hW, issueChecks_expand_badW hb hop hrsv hW]
  | some W =>
    by_cases hr : fieldR v = 0
    · rw [issueChecks_expand_badR hb hop hrsv hW hr, hr]
      exact exec_expand_badR _ hb (by simp [hW])
    · rw [issueChecks_expand_accepted hb hop hrsv hW hr]
      exact exec_expand_idle _ hb hW hr

/-- Presenting a word is R136's list of checks, whatever the word and the state: what the decoder says of the word and what
exec says of the command are together the same checks. -/
theorem presentCommand_eq_issueChecks (v : Reg32) (s : State) : presentCommand v s = .next (issueChecks v s) := by
  cases hb : s.busy with
  | true => rw [presentCommand_busy v hb, issueChecks_busy v hb]
  | false =>
    rcases decodeWord_cases v with ⟨hop, hd⟩ | ⟨hop, hrsv, hd⟩ | ⟨hop, hrsv, hd⟩ | ⟨hop, hrest, hd⟩ |
      ⟨-, ⟨-, rfl, hd⟩ | ⟨-, rfl, hd⟩ | ⟨-, rfl, hd⟩ | ⟨-, rfl, hd⟩⟩
    · rw [presentCommand_illegalOp hd hb, issueChecks_illegalOp hb hop]
    · rw [presentCommand_reservedBitsExpand hd hb, issueChecks_expand_reservedBits hb hop hrsv]
    · rw [presentCommand_command hd, exec_expand_eq_issueChecks hb hop hrsv]
    · rw [presentCommand_reservedBits hd hb, issueChecks_reservedBits hb hop hrest]
    · simp [presentCommand_command hd, exec_nop_idle hb, issueChecks, hb]
    · simp [presentCommand_command hd, exec_keyclr_idle hb, issueChecks, hb]
    · cases hk : s.skv with
      | false => simp [presentCommand_command hd, exec_decrypt_noKey hb hk, issueChecks, hb, hk]
      | true => simp [presentCommand_command hd, exec_decrypt_idle hb hk, issueChecks, hb, hk]
    · simp [presentCommand_command hd, exec_clear_idle hb, issueChecks, hb]

end

/-- Settles O6: a step that writes CMD presents the word. -/
theorem commandWriteFollowsIssueChecks : Obligations.CommandWriteFollowsIssueChecks := by
  intro s v rest h
  rw [step_cmd h, presentCommand_eq_issueChecks]

/-! ### Recorded errors -/

/-- t is s but for the error report, ERRV and ERR. -/
def State.SameButReport (s t : State) : Prop := t = { s with errv := t.errv, err := t.err }

/-- A choice that does not depend on the error report keeps two states the same but for it. -/
theorem State.SameButReport.ite {p : Prop} [Decidable p] {a b a' b' : State} (ha : a.SameButReport a')
    (hb : b.SameButReport b') : (if p then a else b).SameButReport (if p then a' else b') := by
  split
  · exact ha
  · exact hb

/-- The seven checks, then the four commands without operands, then EXPAND: the condition of each reads no part of the error
report, and its answer differs in the report alone (43_control.md R142). -/
theorem issueChecks_sameButReport (v : Reg32) (s : State) (e : Bool) (c : ErrCode) :
    (issueChecks v s).SameButReport (issueChecks v { s with errv := e, err := c }) := by
  unfold issueChecks
  iterate 11 refine .ite rfl ?_
  split <;> rfl

/-- The engine's turn neither reads nor writes the error report: no completion effect does (43_control.md R137). -/
theorem engineStep_report (s : State) (e : Bool) (c : ErrCode) :
    engineStep { s with errv := e, err := c } = { engineStep s with errv := e, err := c } := by
  rcases s.pend.eq_none_or_eq_some with h | ⟨p, h⟩
  · rw [engineStep_idle h]
    exact engineStep_idle h
  · rw [engineStep_pending h]
    refine (engineStep_pending (s := { s with errv := e, err := c }) h).trans ?_
    cases p <;> rfl

/-- Settles O10: presentation by the issue checks, completion by the engine's turn. -/
theorem recordedErrorsDoNotBlock : Obligations.RecordedErrorsDoNotBlock := by
  intro s e c
  refine ⟨fun v t h => ⟨_, presentCommand_eq_issueChecks v _, ?present⟩, engineStep_report s e c⟩
  case present =>
    obtain rfl : issueChecks v s = t := by simpa [presentCommand_eq_issueChecks] using h
    exact issueChecks_sameButReport v s e c

/-! ### NOP and CLEAR -/

/-- Settles O11: an idle block issues NOP with no effect, a pending one rejects it as any command. -/
theorem nopCompletes : Obligations.NopCompletes := by
  intro s
  refine ⟨fun hb => ⟨exec_nop_idle hb, (presentCommand_command (by decide)).trans (exec_nop_idle hb)⟩, exec_busy .nop s,
    fun v hb hop hrest => ?rest⟩
  case rest =>
    obtain ⟨hrsvd, -⟩ := reservedAndIllegalFieldsRejected s v hb
    exact hrsvd (by simp [hop]) hrest

/-- Settles O15: the accepted CLEAR is pending, and the engine's turn completes it with clearEffect. -/
theorem clearCompletes : Obligations.ClearCompletes := by
  intro s rest
  refine ⟨fun hb => ⟨exec_clear_idle hb, presentCommand_command (by decide), _, step_engineNext_of_pend rest rfl, rfl, rfl,
    fun n => ?key, fun n => ?sub, fun n => ?scratch, rfl, rfl, rfl, rfl, rfl, rfl⟩, exec_busy .clear s,
    fun v hb hop hrest => ?rest⟩
  case key | sub | scratch => exact Vector.getElem_replicate _
  case rest =>
    obtain ⟨hrsvd, -⟩ := reservedAndIllegalFieldsRejected s v hb
    exact hrsvd (by simp [hop]) hrest

end Sys2Proof.Machine
end

section
/-! PROOFS. 70_reset_and_hazards.md: writes while BUSY = 1 (R175). -/

namespace Sys2Proof.Machine

/-- While BUSY = 1 a buffer write is discarded and records BUSY, whatever it would have written (70_reset_and_hazards.md R175). -/
theorem writeUnlessBusy_busy (f : State → State) {s : State} (hb : s.busy = true) :
    writeUnlessBusy f s = s.withError .busy := by
  rw [writeUnlessBusy, if_pos hb, raiseCmdError_eq]

@[simp] theorem afterWrite_busy (s : State) : s.afterWrite.busy = s.busy := rfl

/-- Settles O41: the step is the register's write, by the register. BUSY discards CMD, DATAk and KEYk; the other registers'
writes do not look at it. -/
theorem writesWhileBusy : Obligations.WritesWhileBusy := by
  intro s r v hb hacc
  have hbusy : s.afterWrite.busy = true := by rw [afterWrite_busy, hb]
  rw [step_of_write hacc]
  cases r with
  | cmd => exact presentCommand_busy v hbusy
  | data k => exact congrArg Host.Outcome.next (writeUnlessBusy_busy (setData k v) hbusy)
  | key k => exact congrArg Host.Outcome.next (writeUnlessBusy_busy (setKey k v) hbusy)
  | status => exact congrArg Host.Outcome.next (writeStatus_eq v s.afterWrite)
  | ctrl | skidx => rfl
  | id | cap | skdataLo | skdataHi | reserved => rfl

end Sys2Proof.Machine
end

section
/-! PROOFS. 30_encoding.md: the decoder and the encoder are inverse, the opcode map (R70 to R76); dispatch (43_control.md R135). -/

namespace Sys2Proof

/-! ### A word is its fields -/

/-- The five fields make up the word: none of its bits lies outside them (30_encoding.md R72). -/
theorem word_eq_fields (v : BitVec 32) : v = fieldRsv v ++ fieldB v ++ fieldR v ++ fieldWsel v ++ fieldOp v := by
  unfold fieldRsv fieldB fieldR fieldWsel fieldOp
  simp (disch := decide) only [BitVec.extractLsb'_append_extractLsb'_eq_extractLsb']
  exact BitVec.extractLsb'_eq_self.symm

/-- An EXPAND's word is the one that its operand fields make (R72). -/
theorem encode_expand_fields {v : BitVec 32} (hop : fieldOp v = 2) (hrsv : fieldRsv v = 0) :
    encode (.expand (fieldWsel v) (fieldR v) (fieldB v)) = v := by
  obtain ⟨hop', hrsv', hwsel, hr, hb⟩ := fields_encode_expand (fieldWsel v) (fieldR v) (fieldB v)
  rw [word_eq_fields (encode _), hop', hrsv', hwsel, hr, hb, ← hop, ← hrsv, ← word_eq_fields]

/-- Settles O1: the four bare words by evaluation, EXPAND's by its fields. -/
theorem decodeOfEncode : Obligations.DecodeOfEncode := by
  intro i
  cases i with
  | expand wsel r b => exact decodeWord_encode_expand wsel r b
  | nop | keyclr | decrypt | clear => decide

/-- Settles O2: a decoded EXPAND is made of the fields of its word; each other command has its one word. -/
theorem encodeOfDecode : Obligations.EncodeOfDecode := by
  intro v i h
  rcases decodeWord_cases v with ⟨-, hd⟩ | ⟨-, -, hd⟩ | ⟨hop, hrsv, hd⟩ | ⟨-, -, hd⟩ |
    ⟨-, ⟨-, rfl, hd⟩ | ⟨-, rfl, hd⟩ | ⟨-, rfl, hd⟩ | ⟨-, rfl, hd⟩⟩ <;> cases hd.symm.trans h
  · exact encode_expand_fields hop hrsv
  all_goals rfl

/-! ### The opcode map -/

/-- The word of every command is in the command's row (R76). -/
theorem row_holds_encode (i : Instr) : i.row.holds (encode i) = true := by
  cases i with
  | nop => exact Laws.TableRow.nop
  | keyclr => exact Laws.TableRow.keyclr
  | expand wsel r b => exact Laws.TableRow.expand wsel r b
  | decrypt => exact Laws.TableRow.decrypt
  | clear => exact Laws.TableRow.clear

/-- EXPAND's mask covers OP and the reserved bits. -/
theorem fields_and_rowExpand_mask (v : BitVec 32) :
    fieldOp (v &&& rowExpand.mask) = fieldOp v ∧ fieldRsv (v &&& rowExpand.mask) = fieldRsv v := by
  constructor
  all_goals
    apply BitVec.eq_of_getLsbD_eq
    intro i hi
    interval_cases i <;> simp [rowExpand, fieldOp, fieldRsv]

/-- A word in EXPAND's row decodes to the EXPAND of its fields (R76). -/
theorem decodeWord_of_rowExpand {v : BitVec 32} (h : v &&& rowExpand.mask = rowExpand.pattern) :
    decodeWord v = .command (.expand (fieldWsel v) (fieldR v) (fieldB v)) := by
  obtain ⟨hop, hrsv⟩ := fields_and_rowExpand_mask v
  rw [h] at hop hrsv
  have hop : (fieldOp v).toNat = 2 := by rw [← hop]; rfl
  have hrsv : fieldRsv v = 0 := by rw [← hrsv]; rfl
  rw [decodeWord_of_op_two hop, decodeExpand, if_pos hrsv]

/-- A row whose mask covers the whole word holds its pattern alone. -/
theorem eq_of_and_allOnes {v p : BitVec 32} (h : v &&& 0xFFFFFFFF#32 = p) : v = p := by
  rwa [show 0xFFFFFFFF#32 = BitVec.allOnes 32 from rfl, BitVec.and_allOnes] at h

/-- A word in a row of the map decodes to a command of that row (R76). -/
theorem decodes_of_mem_row {v : BitVec 32} {row : OpcodeRow} (hrow : row ∈ opcodeTable) (h : v &&& row.mask = row.pattern) :
    ∃ i, decodeWord v = .command i ∧ i.row = row := by
  simp only [opcodeTable, List.mem_cons, List.not_mem_nil, or_false] at hrow
  rcases hrow with rfl | rfl | rfl | rfl | rfl
  · exact ⟨.nop, by rw [eq_of_and_allOnes h]; decide, rfl⟩
  · exact ⟨.keyclr, by rw [eq_of_and_allOnes h]; decide, rfl⟩
  · exact ⟨_, decodeWord_of_rowExpand h, rfl⟩
  · exact ⟨.decrypt, by rw [eq_of_and_allOnes h]; decide, rfl⟩
  · exact ⟨.clear, by rw [eq_of_and_allOnes h]; decide, rfl⟩

/-- Settles O3: a row's words decode to its commands, and a command's one word is in its row. -/
theorem opcodeMapByMatchAndMask : Obligations.OpcodeMapByMatchAndMask := by
  refine ⟨rfl, fun v row hrow => ⟨decodes_of_mem_row hrow, ?_⟩, fun v i _ => ?_,
    fun v => ⟨fun h => ?_, decodeWord_of_op_ge_five⟩⟩
  · rintro ⟨i, hd, rfl⟩
    rw [← encodeOfDecode v i hd]
    simpa [OpcodeRow.holds] using row_holds_encode i
  · cases i <;> simp [Instr.row, opcodeTable]
  · rcases decodeWord_cases v with ⟨hop, -⟩ | ⟨-, -, hd⟩ | ⟨-, -, hd⟩ | ⟨-, -, hd⟩ |
      ⟨-, ⟨-, -, hd⟩ | ⟨-, -, hd⟩ | ⟨-, -, hd⟩ | ⟨-, -, hd⟩⟩
    · exact hop
    all_goals cases hd.symm.trans h

/-- Settles O4: closed words, evaluated one by one. -/
theorem specWordsDecode : Obligations.SpecWordsDecode := by
  refine ⟨?_, ?_, ?_, ?_, ?_, ?_, ?_, ?_, ?_, ?_⟩ <;> decide

/-! ### Dispatch -/

/-- decodeTableWord reads a command exactly where the decoder does. -/
theorem decodeWord_of_decodeTableWord {nbits w : Nat} {i : Instr} (h : decodeTableWord nbits w = some i) :
    decodeWord (tableWord nbits w) = .command i := by
  unfold decodeTableWord at h
  split at h <;> simp_all

end Sys2Proof

namespace Sys2Proof.Machine

/-- Settles O5: a write to CMD presents its word, and a word that decodes to a command is issued as that command. -/
theorem stepRunsTheDecodedCommand : Obligations.StepRunsTheDecodedCommand := by
  refine ⟨fun s v i rest h hd => ?_, fun s nbits w i h => ?_⟩
  · rw [step_cmd h, presentCommand_command hd]
  · have hfetch : (s.withFetchWord nbits w).inputs = .port 0x010#12 4 (.write (tableWord nbits w)) :: s.inputs := rfl
    rw [step_cmd hfetch, presentCommand_command (decodeWord_of_decodeTableWord h)]
    rfl

end Sys2Proof.Machine
end

section
/-! PROOFS. The invariant: it holds after reset, and every step keeps it (10_state.md sections 2, 3; 43_control.md R136, R137). -/

namespace Sys2Proof.Machine

/-! ### The error report and the fields that the invariant does not speak of -/

section
variable {s : State} (hi : s.Inv)
include hi

/-- The invariant does not speak of CTRL, SKIDX, BLK, K, the hidden state and the model's own fields. -/
theorem State.Inv.of_other_fields {t : State}
    (h : t = { s with
      ieDone := t.ieDone, ieErr := t.ieErr, skidx := t.skidx, blk := t.blk, key := t.key, dp := t.dp
      inputs := t.inputs, resp := t.resp, draws := t.draws }) : t.Inv := by
  rw [h]
  exact hi.transfer ⟨hi.err_none, hi.err_some⟩ rfl rfl rfl rfl rfl (.inl rfl)

/-- Recording an error keeps the invariant: the code recorded is never 0 (60_exceptions.md R152). -/
theorem State.Inv.raiseCmdError {c : ErrCode} (hc : c ≠ .none) : (raiseCmdError c s).Inv := by
  refine hi.transfer ⟨by simp, fun _ => ?_⟩ (by simp) (by simp) (by simp) (by simp) (by simp) (.inl (by simp))
  rw [raiseCmdError_err]
  split
  · next h => exact hi.err_some h
  · exact hc

theorem State.Inv.clearError : (clearError s).Inv :=
  hi.transfer ⟨fun _ => rfl, by simp⟩ rfl rfl rfl rfl rfl (.inl rfl)

theorem State.Inv.clearDone : (clearDone s).Inv :=
  hi.transfer ⟨hi.err_none, hi.err_some⟩ rfl rfl rfl rfl rfl (.inr rfl)

theorem State.Inv.writeStatus (v : Reg32) : (writeStatus v s).Inv := by
  unfold Machine.writeStatus
  cases v.getLsbD 1 <;> cases v.getLsbD 3
  · exact hi
  · exact hi.clearError
  · exact hi.clearDone
  · exact hi.clearDone.clearError

/-! ### The table and the issue of a command -/

/-- Dropping the table keeps the invariant where no DECRYPT is pending that uses it. -/
theorem State.Inv.killTable (hp : s.pend ≠ some .decrypt) : (killTable s).Inv where
  err_none := hi.err_none
  err_some := hi.err_some
  no_table := fun _ => ⟨rfl, rfl⟩
  table := by simp
  pend_expand := fun W r b h => ⟨rfl, (hi.pend_expand W r b h).2⟩
  pend_decrypt := fun h => absurd h hp
  busy_not_done := hi.busy_not_done

/-- A rejected EXPAND keeps the invariant. -/
theorem State.Inv.rejectExpand {c : ErrCode} (hc : c ≠ .none) (hb : s.busy = false) : (rejectExpand c s).Inv :=
  (hi.killTable (by simp [(not_busy_iff s).mp hb])).raiseCmdError hc

/-- Accepting a command other than EXPAND keeps the invariant; DECRYPT is accepted with a valid table only (R136). -/
theorem State.Inv.accept {p : Pending} (hp : ∀ W r b, p ≠ .expand W r b) (hk : p = .decrypt → s.skv = true) :
    (accept p s).Inv where
  err_none := hi.err_none
  err_some := hi.err_some
  no_table := hi.no_table
  table := hi.table
  pend_expand := fun W r b h => absurd (Option.some.inj h) (hp W r b)
  pend_decrypt := fun h => hk (Option.some.inj h)
  busy_not_done := fun _ => rfl

/-- Accepting an EXPAND drops the table, so none is valid while it is pending (R136). -/
theorem State.Inv.acceptExpand (W : Width) {r : BitVec 8} (b : BitVec 8) (hr : r ≠ 0) :
    (Machine.killTable (Machine.accept (.expand W r b) s)).Inv where
  err_none := hi.err_none
  err_some := hi.err_some
  no_table := fun _ => ⟨rfl, rfl⟩
  table := by simp
  pend_expand := by
    rintro W r b ⟨⟩
    exact ⟨rfl, hr⟩
  pend_decrypt := by simp
  busy_not_done := by simp

/-- Presenting a word keeps the invariant, whether the issue checks accept it or not. -/
theorem State.Inv.presentCommand {t : State} {v : Reg32} (hacc : s.nextAccess = some (.cmd, .write v))
    (h : presentCommand v s.afterWrite = .next t) : t.Inv := by
  have hi : s.afterWrite.Inv := hi.of_other_fields rfl
  rcases presentCommand_cases v s t hacc h with ⟨-, rfl⟩ | ⟨-, -, -, rfl | ⟨c, hc, rfl⟩⟩ | ⟨hb, -, -, c, hc, rfl⟩ |
    ⟨-, -, p, -, hp, hk, rfl⟩ | ⟨-, -, W, r, b, -, hr, rfl⟩
  · exact hi.raiseCmdError (by decide)
  · exact hi
  · exact hi.raiseCmdError hc
  · exact hi.rejectExpand hc hb
  · exact hi.accept hp hk
  · exact hi.acceptExpand W b hr

/-- A write to a register other than CMD keeps the invariant. -/
theorem State.Inv.writeReg {t : State} {r : RegName} {v : Reg32} (hc : r ≠ .cmd) (h : writeReg r v s = .next t) : t.Inv := by
  rcases writeReg_cases h with ⟨hr, -⟩ | ⟨-, rfl⟩ | ⟨-, rfl⟩ | ⟨-, rfl⟩ | ⟨k, -, -, rfl⟩ | ⟨k, -, -, rfl⟩ | ⟨-, -, rfl⟩ |
    ⟨-, rfl⟩
  · exact absurd hr hc
  · exact hi.of_other_fields rfl
  · exact hi.writeStatus v
  · exact hi.of_other_fields rfl
  · exact hi.of_other_fields rfl
  · exact hi.of_other_fields (by apply State.ext_fields <;> simp)
  · exact hi.raiseCmdError (by decide)
  · exact hi

/-! ### Completion -/

/-- A completion keeps the invariant: EXPAND makes a table that is valid for the r of 1..255 with which it was accepted, CLEAR
drops the table, KEYCLR and DECRYPT leave it (43_control.md R137). -/
theorem State.Inv.complete {p : Pending} (hp : s.pend = some p) : (finish (completionEffect p s)).Inv where
  err_none := by cases p <;> exact hi.err_none
  err_some := by cases p <;> exact hi.err_some
  no_table := by
    cases p with
    | keyclr | decrypt => exact hi.no_table
    | expand W r b => exact fun h => nomatch h
    | clear => exact fun _ => ⟨rfl, rfl⟩
  table := by
    cases p with
    | keyclr | decrypt => exact hi.table
    | expand W r b =>
      have hlen : (keyBytes s.key b.toNat).length ≤ 255 := by
        rw [length_keyBytes _ _ (by omega)]
        omega
      exact fun _ => ⟨(hi.pend_expand W r b hp).2, keyBytes s.key b.toNat, hlen, rfl⟩
    | clear => exact fun h => nomatch h
  pend_expand := by simp
  pend_decrypt := by simp
  busy_not_done := by simp

theorem State.Inv.engineStep : (engineStep s).Inv := by
  rcases s.pend.eq_none_or_eq_some with h | ⟨p, h⟩
  · rwa [engineStep_idle h]
  · rw [engineStep_pending h]
    exact hi.complete h

end

/-! ### The obligations -/

/-- Settles O46: after reset no error is recorded, no table is valid and no command is pending. -/
theorem invariantHoldsAtReset : Obligations.InvariantHoldsAtReset where
  err_none := fun _ => rfl
  err_some := fun h => nomatch h
  no_table := fun _ => ⟨rfl, rfl⟩
  table := fun h => nomatch h
  pend_expand := fun _ _ _ h => nomatch h
  pend_decrypt := fun h => nomatch h
  busy_not_done := fun h => nomatch h

/-- Settles O47: by the kinds of step, each with what its operation does to the invariant. -/
theorem everyStepKeepsTheInvariant : Obligations.EveryStepKeepsTheInvariant := by
  intro s t hi h
  have hin : (takeInput s).Inv := hi.of_other_fields rfl
  have hwr : s.afterWrite.Inv := hi.of_other_fields rfl
  rcases step_cases_apart h with ⟨r, -, -, -, rfl⟩ | ⟨r, v, ha, -, -, hw⟩ | ⟨-, -, -, rfl⟩ | ⟨-, -, -, rfl⟩ | ⟨-, -, -, rfl⟩
  · rcases readReg_state r (takeInput s) with hr | hr <;> rw [hr] <;> exact hi.of_other_fields rfl
  · by_cases hc : r = .cmd
    · subst hc
      exact hi.presentCommand ha hw
    · exact hwr.writeReg hc hw
  · exact hin.engineStep
  · exact invariantHoldsAtReset.of_other_fields rfl
  · exact hin

end Sys2Proof.Machine
end

section
/-! PROOFS. What issue, the engine's turn and a step leave unchanged, and the life of a pending command (10_state.md sections 2 and
3; 20_memory.md section 4; 43_control.md R136, R137). -/

namespace Sys2Proof.Machine

/-! ### Issue -/

/-- Settles O9: by what issuing a command can do; recording an error and rejecting an EXPAND are one record update each. -/
theorem issueFrame : Obligations.IssueFrame := by
  intro i s t h
  obtain ⟨t', ht', hcases⟩ := exec_cases i s
  obtain rfl : t' = t := by simpa [ht'] using h
  rcases hcases with ⟨c, -, rfl⟩ | ⟨c, wsel, r, b, rfl, -, -, rfl⟩ | ⟨-, -, rfl⟩ | ⟨-, -, rfl⟩ |
    ⟨wsel, r, b, W, rfl, -, -, -, rfl⟩ | ⟨-, -, -, rfl⟩ | ⟨-, -, rfl⟩
  · rw [raiseCmdError_eq]
    exact ⟨rfl, fun _ => ⟨rfl, rfl, rfl⟩, .inl ⟨rfl, rfl⟩⟩
  · rw [rejectExpand_eq]
    exact ⟨rfl, fun hne => absurd rfl (hne wsel r b), .inl ⟨rfl, rfl⟩⟩
  · exact ⟨rfl, fun _ => ⟨rfl, rfl, rfl⟩, .inl ⟨rfl, rfl⟩⟩
  · exact ⟨rfl, fun _ => ⟨rfl, rfl, rfl⟩, .inr ⟨rfl, rfl⟩⟩
  · exact ⟨rfl, fun hne => absurd rfl (hne wsel r b), .inr ⟨rfl, rfl⟩⟩
  · exact ⟨rfl, fun _ => ⟨rfl, rfl, rfl⟩, .inr ⟨rfl, rfl⟩⟩
  · exact ⟨rfl, fun _ => ⟨rfl, rfl, rfl⟩, .inr ⟨rfl, rfl⟩⟩

/-- Presenting a word leaves the storage arrays and the inputs, whatever the issue checks say of it (43_control.md R136). -/
theorem presentCommand_frame {v : Reg32} {s t : State} (hacc : s.nextAccess = some (.cmd, .write v))
    (h : presentCommand v s.afterWrite = .next t) :
    t.sub = s.sub ∧ t.key = s.key ∧ t.blk = s.blk ∧ t.inputs = s.inputs.tail := by
  rcases presentCommand_cases v s t hacc h with ⟨-, rfl⟩ | ⟨-, -, -, rfl | ⟨c, -, rfl⟩⟩ | ⟨-, -, -, c, -, rfl⟩ |
    ⟨-, -, p, -, -, -, rfl⟩ | ⟨-, -, W, r, b, -, -, rfl⟩ <;> simp [State.afterWrite]

/-- Presenting a word drops the table exactly where it is an EXPAND's, well-formed or not, and no command is pending (R136). -/
theorem presentCommand_tableReport {v : Reg32} {s t : State} (hacc : s.nextAccess = some (.cmd, .write v))
    (h : presentCommand v s.afterWrite = .next t) :
    (t.skv, t.curW, t.curR) = if s.busy = false ∧ fieldOp v = 2#4 then (false, .w16, 0) else (s.skv, s.curW, s.curR) := by
  rcases presentCommand_cases v s t hacc h with ⟨hb, rfl⟩ | ⟨-, -, hop, rfl | ⟨c, -, rfl⟩⟩ | ⟨hb, -, hop, c, -, rfl⟩ |
    ⟨-, hop, p, -, -, -, rfl⟩ | ⟨hb, hop, W, r, b, -, -, rfl⟩
  · simp [hb, State.afterWrite]
  · simp [hop, State.afterWrite]
  · simp [hop, State.afterWrite]
  · simp [hb, hop]
  · simp [hop, State.afterWrite]
  · simp [hb, hop]

/-! ### Register reads and writes -/

@[simp] theorem readReg_skv (r : RegName) (s : State) : (readReg r s).2.skv = s.skv := by
  rcases readReg_state r s with h | h <;> simp [h]
@[simp] theorem readReg_curW (r : RegName) (s : State) : (readReg r s).2.curW = s.curW := by
  rcases readReg_state r s with h | h <;> simp [h]
@[simp] theorem readReg_curR (r : RegName) (s : State) : (readReg r s).2.curR = s.curR := by
  rcases readReg_state r s with h | h <;> simp [h]
@[simp] theorem readReg_errv (r : RegName) (s : State) : (readReg r s).2.errv = s.errv := by
  rcases readReg_state r s with h | h <;> simp [h]
@[simp] theorem readReg_err (r : RegName) (s : State) : (readReg r s).2.err = s.err := by
  rcases readReg_state r s with h | h <;> simp [h]
@[simp] theorem readReg_sub (r : RegName) (s : State) : (readReg r s).2.sub = s.sub := by
  rcases readReg_state r s with h | h <;> simp [h]
@[simp] theorem readReg_key (r : RegName) (s : State) : (readReg r s).2.key = s.key := by
  rcases readReg_state r s with h | h <;> simp [h]
@[simp] theorem readReg_blk (r : RegName) (s : State) : (readReg r s).2.blk = s.blk := by
  rcases readReg_state r s with h | h <;> simp [h]
@[simp] theorem readReg_dp (r : RegName) (s : State) : (readReg r s).2.dp = s.dp := by
  rcases readReg_state r s with h | h <;> simp [h]
@[simp] theorem readReg_inputs (r : RegName) (s : State) : (readReg r s).2.inputs = s.inputs := by
  rcases readReg_state r s with h | h <;> simp [h]

@[simp] theorem afterWrite_inputs (s : State) : s.afterWrite.inputs = s.inputs.tail := rfl

/-- A write to a register other than CMD leaves the table and its report. -/
theorem writeReg_table_frame {r : RegName} {v : Reg32} {s t : State} (hc : r ≠ .cmd) (h : writeReg r v s = .next t) :
    t.skv = s.skv ∧ t.curW = s.curW ∧ t.curR = s.curR ∧ t.sub = s.sub ∧ t.inputs = s.inputs := by
  rcases writeReg_cases h with ⟨hr, -⟩ | ⟨-, rfl⟩ | ⟨-, rfl⟩ | ⟨-, rfl⟩ | ⟨k, -, -, rfl⟩ | ⟨k, -, -, rfl⟩ | ⟨-, -, rfl⟩ |
    ⟨-, rfl⟩
  · exact absurd hr hc
  all_goals simp

/-- A write to a register other than CMD leaves K but for KEYk while BUSY = 0, and BLK but for DATAk while BUSY = 0 (10_state.md
R39, R40). -/
theorem writeReg_storage_frame {r : RegName} {v : Reg32} {s t : State} (hc : r ≠ .cmd) (h : writeReg r v s = .next t) :
    (t.key = s.key ∨ s.busy = false ∧ ∃ k, r = .key k) ∧ (t.blk = s.blk ∨ s.busy = false ∧ ∃ k, r = .data k) := by
  rcases writeReg_cases h with ⟨hr, -⟩ | ⟨-, rfl⟩ | ⟨-, rfl⟩ | ⟨-, rfl⟩ | ⟨k, rfl, hb, rfl⟩ | ⟨k, rfl, hb, rfl⟩ |
    ⟨-, -, rfl⟩ | ⟨-, rfl⟩
  · exact absurd hr hc
  all_goals simp [*]

/-! ### The engine's turn -/

section
variable (p : Pending) (s : State)

@[simp] theorem completionEffect_ieDone : (completionEffect p s).ieDone = s.ieDone := by cases p <;> rfl
@[simp] theorem completionEffect_ieErr : (completionEffect p s).ieErr = s.ieErr := by cases p <;> rfl
@[simp] theorem completionEffect_errv : (completionEffect p s).errv = s.errv := by cases p <;> rfl
@[simp] theorem completionEffect_err : (completionEffect p s).err = s.err := by cases p <;> rfl
@[simp] theorem completionEffect_inputs : (completionEffect p s).inputs = s.inputs := by cases p <;> rfl
@[simp] theorem completionEffect_resp : (completionEffect p s).resp = s.resp := by cases p <;> rfl

end

/-- The engine's turn completes the command that s.completing names, or does nothing if it names none (43_control.md R137). -/
theorem engineTurn_cases {s : State} (h : s.engineTurn = true) :
    (s.completing = none ∧ engineStep (takeInput s) = takeInput s) ∨
    (∃ p, s.completing = some p ∧ engineStep (takeInput s) = finish (completionEffect p (takeInput s))) := by
  have hc : s.completing = s.pend := if_pos h
  rw [hc]
  rcases s.pend.eq_none_or_eq_some with hp | ⟨p, hp⟩
  · exact .inl ⟨hp, engineStep_idle hp⟩
  · exact .inr ⟨p, hp, engineStep_pending hp⟩

/-- No step but the engine's turn completes a command. -/
theorem completing_eq_none {s : State} (h : s.engineTurn = false) : s.completing = none := by
  simp [State.completing, h]

/-- What a completion does is what the rules of the four commands say of it (41_key_schedule.md R110, R111; 42_decrypt.md R124;
43_control.md R137, R139). -/
theorem completedAs_finish (s : State) (p : Pending) : s.completedAs p (finish (completionEffect p s)) := by
  refine ⟨rfl, rfl, rfl, ?_⟩
  cases p with
  | keyclr => exact ⟨fun n => Vector.getElem_replicate _, rfl, rfl, rfl, rfl, rfl⟩
  | expand W r b => exact ⟨fun n => storeTable_get _ n.val n.isLt, rfl, rfl, rfl, rfl, rfl⟩
  | decrypt => exact ⟨extract_setBlock s.curW s.blk _, fun k hk => setBlock_getLsbD_above s.blk _ hk, rfl, rfl, rfl, rfl, rfl⟩
  | clear => exact ⟨fun n => Vector.getElem_replicate _, fun n => Vector.getElem_replicate _, rfl, rfl, rfl, rfl, rfl⟩

/-- The engine's turn completes the pending command of the state in which it comes. -/
theorem completedAs_engineStep {s : State} {p : Pending} (hp : s.pend = some p) :
    s.completedAs p (engineStep (takeInput s)) := by
  have hp' : (takeInput s).pend = some p := hp
  rw [engineStep_pending hp']
  exact State.completedAs_congr rfl rfl rfl rfl rfl rfl (completedAs_finish (takeInput s) p)

/-- Settles O16: the turn is engineStep of the state with the turn taken off its inputs. -/
theorem engineTurnCompletesExactlyWhenBusy : Obligations.EngineTurnCompletesExactlyWhenBusy := by
  intro s he
  refine ⟨fun hb => ?idle, fun p hp => ⟨_, step_of_engineTurn he, completedAs_engineStep hp, ?frame⟩⟩
  case idle =>
    have hp : (takeInput s).pend = none := (not_busy_iff s).mp hb
    rw [step_of_engineTurn he, engineStep_idle hp]
    rfl
  case frame =>
    have hp : (takeInput s).pend = some p := hp
    rw [engineStep_pending hp]
    refine ⟨by simp, by simp, by simp, by simp, by simp, by simp, by simp, ?_⟩
    rintro rfl
    rfl

/-! ### What a step changes -/

/-- Settles O19: by the kinds of step; the completions of EXPAND and CLEAR, reset and a presented EXPAND are the four writers. -/
theorem tableReportChangesOnlyAsRuled : Obligations.TableReportChangesOnlyAsRuled := by
  intro s t h
  rcases step_cases_apart h with ⟨r, ha, he, hr, rfl⟩ | ⟨r, v, ha, he, hr, hw⟩ | ⟨he, ha, hr, rfl⟩ | ⟨hr, -, -, rfl⟩ |
    ⟨ha, he, hr, rfl⟩
  · simp [completing_eq_none he, ha, hr]
  · by_cases hc : r = .cmd
    · subst hc
      rw [presentCommand_tableReport ha hw, hr, completing_eq_none he, ha]
      rfl
    · obtain ⟨hskv, hW, hR, -, -⟩ := writeReg_table_frame hc hw
      simp [completing_eq_none he, ha, hr, hc, hskv, hW, hR, State.afterWrite]
  · rcases engineTurn_cases he with ⟨hcomp, heq⟩ | ⟨p, hcomp, heq⟩
    · simp [hcomp, heq, ha, hr]
    · rw [hcomp, heq, ha, hr]
      cases p <;> rfl
  · rw [hr]
    rfl
  · simp [completing_eq_none he, ha, hr]

/-- Settles O20: by the kinds of step; a register write reaches K and BLK alone, and no presented word any of the three. -/
theorem storageChangesOnlyByItsWriters : Obligations.StorageChangesOnlyByItsWriters := by
  intro s t h
  rcases step_cases_apart h with ⟨r, -, -, -, rfl⟩ | ⟨r, v, ha, -, -, hw⟩ | ⟨he, -, -, rfl⟩ | ⟨hr, -, -, rfl⟩ |
    ⟨-, -, -, rfl⟩
  · simp
  · by_cases hc : r = .cmd
    · subst hc
      obtain ⟨hsub, hkey, hblk, -⟩ := presentCommand_frame ha hw
      simp [hsub, hkey, hblk]
    · obtain ⟨-, -, -, hsub, -⟩ := writeReg_table_frame hc hw
      obtain ⟨hkey, hblk⟩ := writeReg_storage_frame hc hw
      refine ⟨fun hne => absurd hsub hne, fun hne => ?_, fun hne => ?_⟩
      · obtain ⟨hb, k, rfl⟩ := hkey.resolve_left hne
        exact .inr (.inr (.inr ⟨hb, k, v, ha⟩))
      · obtain ⟨hb, k, rfl⟩ := hblk.resolve_left hne
        exact .inr (.inr (.inr ⟨hb, k, v, ha⟩))
  · rcases engineTurn_cases he with ⟨hcomp, heq⟩ | ⟨p, hcomp, heq⟩
    · simp [heq]
    · rw [hcomp, heq]
      cases p <;> simp [completionEffect, keyclrEffect, expandEffect, decryptEffect]
  · simp [hr]
  · simp

/-- Settles O21: a read changes no register, and O41 says what each write does while BUSY = 1. -/
theorem inFlightCommandIsFixed : Obligations.InFlightCommandIsFixed := by
  intro s t h hb he hr
  rcases step_cases_apart h with ⟨r, -, -, -, rfl⟩ | ⟨r, v, ha, -, -, -⟩ | ⟨he', -⟩ | ⟨hr', -⟩ | ⟨-, -, -, rfl⟩
  · simp
  · obtain rfl := Host.Outcome.next.inj ((writesWhileBusy s r v hb ha).symm.trans h)
    cases r <;> simp +contextual [State.afterWrite, State.withError]
  · simp [he] at he'
  · simp [hr] at hr'
  · simp

/-- Every step takes the next input off the list, if there is one. -/
theorem step_inputs {s t : State} (h : step s = .next t) : t.inputs = s.inputs.tail := by
  rcases step_cases_apart h with ⟨r, -, -, -, rfl⟩ | ⟨r, v, ha, -, -, hw⟩ | ⟨he, -, -, rfl⟩ | ⟨-, -, -, rfl⟩ | ⟨-, -, -, rfl⟩
  · simp
  · by_cases hc : r = .cmd
    · subst hc
      obtain ⟨-, -, -, hin⟩ := presentCommand_frame ha hw
      exact hin
    · obtain ⟨-, -, -, -, hin⟩ := writeReg_table_frame hc hw
      exact hin
  · rcases engineTurn_cases he with ⟨-, heq⟩ | ⟨p, -, heq⟩ <;> simp [heq]
  · rfl
  · rfl

/-! ### Every pending command completes -/

/-- What O22 says of the state s with p pending: some number of steps, at most one more than its inputs, reaches BUSY = 0, with p
completed where no reset is listed; in every state before it p's data are as in s. -/
def State.Completes (s : State) (p : Pending) : Prop :=
  ∃ k, k ≤ s.inputs.length + 1 ∧
    (∃ t, Sys2Proof.core.run k s = .next t ∧ State.busy t = false ∧ (.reset ∉ s.inputs → s.completedAs p t)) ∧
    ∀ j, j < k → ∃ t : State, Sys2Proof.core.run j s = .next t ∧
      t.pend = s.pend ∧ t.key = s.key ∧ t.sub = s.sub ∧ t.blk = s.blk

/-- One step is enough where it is the last with BUSY = 1. -/
theorem State.completes_of_step {s t : State} {p : Pending} (h : step s = .next t) (hb : t.busy = false)
    (hdone : .reset ∉ s.inputs → s.completedAs p t) : s.Completes p := by
  refine ⟨1, by omega, ⟨t, run_succ_of_next h 0, hb, hdone⟩, fun j hj => ?_⟩
  obtain rfl : j = 0 := by omega
  exact ⟨s, run_zero s, rfl, rfl, rfl, rfl⟩

/-- A step that is neither the engine's turn nor a reset leaves the pending command and its data (O21), so it comes before those
that complete the command from the next state. -/
theorem State.Completes.of_step {s t : State} {p : Pending} (h : step s = .next t) (hb : s.busy = true)
    (he : s.engineTurn = false) (hr : s.resetNext = false) (ht : t.Completes p) : s.Completes p := by
  obtain ⟨hpend, hkey, hsub, hblk, -, hskv, hW, hR, -⟩ := inFlightCommandIsFixed s t h hb he hr
  have hin : t.inputs = s.inputs.tail := step_inputs h
  have hlen : 1 ≤ s.inputs.length := by
    by_contra hnil
    simp [State.engineTurn, List.eq_nil_of_length_eq_zero (show s.inputs.length = 0 by omega)] at he
  obtain ⟨k, hk, ⟨u, hu, hub, hdone⟩, hbefore⟩ := ht
  rw [hin] at hk hdone
  refine ⟨k + 1, ?_, ⟨u, (run_succ_of_next h k).trans hu, hub, fun hreset => ?_⟩, fun j hj => ?_⟩
  · rw [List.length_tail] at hk
    omega
  · exact State.completedAs_congr hkey hsub hblk hskv hW hR (hdone fun hmem => hreset (List.mem_of_mem_tail hmem))
  · cases j with
    | zero => exact ⟨s, run_zero s, rfl, rfl, rfl, rfl⟩
    | succ j =>
      obtain ⟨u, hu, hpend', hkey', hsub', hblk'⟩ := hbefore j (by omega)
      exact ⟨u, (run_succ_of_next h j).trans hu, hpend'.trans hpend, hkey'.trans hkey, hsub'.trans hsub, hblk'.trans hblk⟩

/-- Settles O22: by induction on the inputs to come. The engine's turn, listed or because nothing is, completes the command; a
reset ends it; any other step leaves it pending. -/
theorem pendingCommandCompletes : Obligations.PendingCommandCompletes := by
  intro s p hlegal hp
  show s.Completes p
  induction hn : s.inputs.length generalizing s with
  | zero =>
    have he : s.engineTurn = true := by simp [State.engineTurn, List.eq_nil_of_length_eq_zero hn]
    exact State.completes_of_step (step_of_engineTurn he) (by simp [State.busy]) fun _ => completedAs_engineStep hp
  | succ n ih =>
    cases he : s.engineTurn with
    | true => exact State.completes_of_step (step_of_engineTurn he) (by simp [State.busy]) fun _ => completedAs_engineStep hp
    | false =>
      cases hr : s.resetNext with
      | true =>
        have hmem : .reset ∈ s.inputs := List.mem_of_mem_head? (by simpa [State.resetNext] using hr)
        exact State.completes_of_step (step_of_resetNext hr) rfl fun hnot => absurd hmem hnot
      | false =>
        have hb : s.busy = true := (busy_iff s).mpr ⟨p, hp⟩
        obtain ⟨t, h⟩ := step_next_of_legal fun e hmem => hlegal e (List.mem_of_mem_head? hmem)
        obtain ⟨hpend, -⟩ := inFlightCommandIsFixed s t h hb he hr
        have hin : t.inputs = s.inputs.tail := step_inputs h
        have hlegal' : t.hostLegal := fun e hmem => hlegal e (List.mem_of_mem_tail (hin ▸ hmem))
        exact .of_step h hb he hr (ih t hlegal' (hpend.trans hp) (by simp [hin, hn]))

end Sys2Proof.Machine
end

section
/-! PROOFS. 60_exceptions.md: the error report and its first error (R151 to R155), the interrupt (R156 to R158), the race of R159. -/

namespace Sys2Proof.Machine

/-! ### The error report -/

@[simp] theorem afterWrite_errv (s : State) : s.afterWrite.errv = s.errv := rfl
@[simp] theorem afterWrite_err (s : State) : s.afterWrite.err = s.err := rfl

@[simp] theorem engineStep_ieDone (s : State) : (engineStep s).ieDone = s.ieDone := by
  rcases s.pend.eq_none_or_eq_some with h | ⟨p, h⟩ <;> simp [engineStep_idle, engineStep_pending, h]
@[simp] theorem engineStep_ieErr (s : State) : (engineStep s).ieErr = s.ieErr := by
  rcases s.pend.eq_none_or_eq_some with h | ⟨p, h⟩ <;> simp [engineStep_idle, engineStep_pending, h]
@[simp] theorem engineStep_errv (s : State) : (engineStep s).errv = s.errv := by
  rcases s.pend.eq_none_or_eq_some with h | ⟨p, h⟩ <;> simp [engineStep_idle, engineStep_pending, h]
@[simp] theorem engineStep_err (s : State) : (engineStep s).err = s.err := by
  rcases s.pend.eq_none_or_eq_some with h | ⟨p, h⟩ <;> simp [engineStep_idle, engineStep_pending, h]

/-- With an error recorded, presenting a word keeps it (60_exceptions.md R151). -/
theorem presentCommand_keeps_error {v : Reg32} {s t : State} (hacc : s.nextAccess = some (.cmd, .write v))
    (h : presentCommand v s.afterWrite = .next t) (he : s.errv = true) : t.errv = true ∧ t.err = s.err := by
  rcases presentCommand_cases v s t hacc h with ⟨-, rfl⟩ | ⟨-, -, -, rfl | ⟨c, -, rfl⟩⟩ | ⟨-, -, -, c, -, rfl⟩ |
    ⟨-, -, p, -, -, -, rfl⟩ | ⟨-, -, W, r, b, -, -, rfl⟩ <;> simp [he]

/-- With an error recorded, a write to a register other than CMD keeps it, unless it is W1C of STATUS bit 3 (R151, R155). -/
theorem writeReg_keeps_error {r : RegName} {v : Reg32} {s t : State} (hc : r ≠ .cmd) (h : writeReg r v s = .next t)
    (he : s.errv = true) (hclear : r = .status → v.getLsbD 3 = false) : t.errv = true ∧ t.err = s.err := by
  rcases writeReg_cases h with ⟨hr, -⟩ | ⟨-, rfl⟩ | ⟨hr, rfl⟩ | ⟨-, rfl⟩ | ⟨k, -, -, rfl⟩ | ⟨k, -, -, rfl⟩ | ⟨-, -, rfl⟩ |
    ⟨-, rfl⟩
  · exact absurd hr hc
  · simp [he]
  · rw [writeStatus_errv, writeStatus_err, hclear hr, he]
    exact ⟨rfl, rfl⟩
  all_goals simp [he]

/-- Settles O24: by the kinds of step; of the writes only STATUS clears the report. -/
theorem firstErrorIsKept : Obligations.FirstErrorIsKept := by
  intro s t h he hr hclear
  rcases step_cases_apart h with ⟨r, -, -, -, rfl⟩ | ⟨r, v, ha, -, -, hw⟩ | ⟨-, -, -, rfl⟩ | ⟨hr', -⟩ | ⟨-, -, -, rfl⟩
  · simp [he]
  · by_cases hc : r = .cmd
    · subst hc
      exact presentCommand_keeps_error ha hw he
    · exact writeReg_keeps_error (s := s.afterWrite) hc hw he fun hs => hclear v (hs ▸ ha)
  · simp [he]
  · simp [hr] at hr'
  · simp [he]

/-- A presented word that records an error is rejected: it changes the report, and drops the table where it is an EXPAND's and no
command is pending (43_control.md R136; 60_exceptions.md R154). -/
theorem presentCommand_records {v : Reg32} {s t : State} (hacc : s.nextAccess = some (.cmd, .write v))
    (h : presentCommand v s.afterWrite = .next t) (he : s.errv = false) (he' : t.errv = true) :
    ∃ c, c ≠ ErrCode.none ∧
      (t = s.afterWrite.withError c ∨
       s.busy = false ∧ fieldOp v = 2#4 ∧
        t = State.withError { s.afterWrite with skv := false, curW := .w16, curR := 0 } c) := by
  rcases presentCommand_cases v s t hacc h with ⟨-, rfl⟩ | ⟨-, -, -, rfl | ⟨c, hc, rfl⟩⟩ | ⟨hb, -, hop, c, hc, rfl⟩ |
    ⟨-, -, p, -, -, -, rfl⟩ | ⟨-, -, W, r, b, -, -, rfl⟩
  · exact ⟨.busy, by decide, .inl (raiseCmdError_eq _ _)⟩
  · simp [he] at he'
  · exact ⟨c, hc, .inl (raiseCmdError_eq _ _)⟩
  · exact ⟨c, hc, .inr ⟨hb, hop, rejectExpand_eq _ _⟩⟩
  · simp [he] at he'
  · simp [he] at he'

/-- A write to a register other than CMD records BUSY or no error at all. -/
theorem writeReg_records {r : RegName} {v : Reg32} {s t : State} (hc : r ≠ .cmd) (h : writeReg r v s = .next t)
    (he : s.errv = false) (he' : t.errv = true) : t = s.withError .busy := by
  rcases writeReg_cases h with ⟨hr, -⟩ | ⟨-, rfl⟩ | ⟨-, rfl⟩ | ⟨-, rfl⟩ | ⟨k, -, -, rfl⟩ | ⟨k, -, -, rfl⟩ | ⟨-, -, rfl⟩ |
    ⟨-, rfl⟩
  · exact absurd hr hc
  iterate 5
    · simp [he] at he'
  · exact raiseCmdError_eq _ _
  · simp [he] at he'

/-- A step that records an error serves a write; what it does is R151's record update, with the table dropped or not. -/
theorem step_records {s t : State} (h : step s = .next t) (he : s.errv = false) (he' : t.errv = true) :
    ∃ r v c, s.nextAccess = some (r, .write v) ∧ c ≠ ErrCode.none ∧
      (t = s.afterWrite.withError c ∨
       s.busy = false ∧ r = .cmd ∧ fieldOp v = 2#4 ∧
        t = State.withError { s.afterWrite with skv := false, curW := .w16, curR := 0 } c) := by
  rcases step_cases_apart h with ⟨r, -, -, -, rfl⟩ | ⟨r, v, ha, -, -, hw⟩ | ⟨-, -, -, rfl⟩ | ⟨-, -, -, rfl⟩ | ⟨-, -, -, rfl⟩
  · simp [he] at he'
  · by_cases hc : r = .cmd
    · subst hc
      obtain ⟨c, hc, ht | ⟨hb, hop, ht⟩⟩ := presentCommand_records ha hw he he'
      · exact ⟨.cmd, v, c, ha, hc, .inl ht⟩
      · exact ⟨.cmd, v, c, ha, hc, .inr ⟨hb, rfl, hop, ht⟩⟩
    · exact ⟨r, v, .busy, ha, by decide, .inl (writeReg_records hc hw he he')⟩
  · simp [he] at he'
  · cases he'
  · simp [he] at he'

/-- Settles O25: the two forms that the state can have after a step that records an error. -/
theorem errorEntryChangesNothingElse : Obligations.ErrorEntryChangesNothingElse := by
  intro s t h he he'
  obtain ⟨r, v, c, ha, hc, rfl | ⟨hb, rfl, hop, rfl⟩⟩ := step_records h he he'
  · exact ⟨rfl, ⟨r, v, ha⟩, by simpa [State.withError, he] using hc, .inl ⟨rfl, rfl, rfl⟩,
      by simp [State.irq, State.withError, State.afterWrite]⟩
  · exact ⟨rfl, ⟨.cmd, v, ha⟩, by simpa [State.withError, he] using hc, .inr ⟨hb, rfl, rfl, rfl, v, ha, hop⟩,
      by simp [State.irq, State.withError, State.afterWrite]⟩

/-! ### The interrupt -/

/-- Settles O27: IRQ is a function of the state, so each source is what its operation does to DONE, ERRV and the enables. -/
theorem interruptSources : Obligations.InterruptSources := by
  intro s t h
  refine ⟨fun hcomp => ?completion, fun v ha => ?ctrl, fun v ha hdone herr => ?status, fun hr => ?reset⟩
  case completion =>
    have he : s.engineTurn = true := by
      by_contra hne
      simp [completing_eq_none (by simpa using hne)] at hcomp
    have hp : s.pend.isSome = true := by simpa [State.completing, he] using hcomp
    obtain rfl : engineStep (takeInput s) = t := by simpa [step_of_engineTurn he] using h
    simp [State.irq, hp]
  case ctrl =>
    obtain rfl : writeCtrl v s.afterWrite = t := by simpa [step_of_write ha, writeReg] using h
    exact ⟨rfl, rfl, rfl⟩
  case status =>
    obtain rfl : writeStatus v s.afterWrite = t := by simpa [step_of_write ha, writeReg] using h
    rw [State.irq, writeStatus_done, writeStatus_errv, hdone, herr]
    simp
  case reset =>
    obtain rfl : resetStep (takeInput s) = t := by simpa [step_of_resetNext hr] using h
    rfl

/-! ### The race of a command write with a completion -/

/-- Settles O23: the two orders in which the port and the engine can be served (R159). -/
theorem issueRaceHasBothOutcomes : Obligations.IssueRaceHasBothOutcomes := by
  intro s W r b rest hp herr
  refine ⟨?rejected, ?accepted⟩
  case rejected =>
    have hb : s.busy = true := (busy_iff s).mpr ⟨_, hp⟩
    have hwrite : step { s with inputs := .port 0x010#12 4 (.write 3#32) :: .engine :: rest } = .next
        (State.withError { s with inputs := .engine :: rest, resp := .written } .busy) :=
      (step_cmd rfl).trans (presentCommand_busy 3#32 hb)
    have hengine := step_engineNext_of_pend
      (s := State.withError { s with inputs := rest, resp := .written } .busy) rest hp
    refine ⟨_, (run_succ_of_next hwrite 1).trans (run_succ_of_next hengine 0), rfl, ?_, rfl, rfl, rfl, rfl⟩
    simp [completionEffect, expandEffect, State.withError, herr]
  case accepted =>
    have hengine := step_engineNext_of_pend (s := s) (.port 0x010#12 4 (.write 3#32) :: rest) hp
    have hwrite := (step_cmd (s := finish (completionEffect (.expand W r b)
      { s with inputs := .port 0x010#12 4 (.write 3#32) :: rest })) rfl).trans
      ((presentCommand_command (i := .decrypt) (by decide)).trans (exec_decrypt_idle rfl rfl))
    exact ⟨_, (run_succ_of_next hengine 1).trans (run_succ_of_next hwrite 0), herr, rfl, rfl, rfl, rfl⟩

end Sys2Proof.Machine
end

section
/-! PROOFS. 20_memory.md section 1: bus errors (R52), the address decode (R51), the register map (10_state.md R22) and the places that
ignore writes (R54). -/

namespace Sys2Proof.Machine

/-! ### Bus errors -/

/-- An access that is misaligned or not 32 bits wide is a bus error (20_memory.md R52). -/
theorem step_fault_of_illegal {s : State} {e : Input} {rest : List Input} (h : s.inputs = e :: rest) (hl : e.legal = false) :
    ∃ off, step s = .fault (.busError off) := by
  rw [step_cons h]
  cases e with
  | port off bytes kind => exact ⟨off, portAccess_illegal hl kind _⟩
  | bus addr bytes kind =>
    rw [serve_bus]
    simp only [Input.legal] at hl
    cases hw : windowOffset addr with
    | none => simp [hw] at hl
    | some off =>
      simp only [hw] at hl
      exact ⟨off, portAccess_illegal hl kind _⟩
  | engine => cases hl
  | reset => cases hl

/-- A step answers a next state, unless an illegal access comes next. -/
theorem step_next_or_illegal (s : State) :
    (∃ t, step s = .next t) ∨ ∃ e rest, s.inputs = e :: rest ∧ e.legal = false := by
  cases hin : s.inputs with
  | nil => exact .inl ⟨_, step_nil hin⟩
  | cons e rest =>
    cases hl : e.legal with
    | false => exact .inr ⟨e, rest, rfl, hl⟩
    | true => exact .inl (step_next_of_legal (by simp [hin, hl]))

/-- Settles O28: a step answers a next state, or the access that comes next is illegal and the step faults. -/
theorem busErrorExactlyWhenIllegal : Obligations.BusErrorExactlyWhenIllegal := by
  refine ⟨fun s off bytes kind rest h hbad => ⟨?fault, ?goesOn⟩, fun s off kind rest h hal => ?served, fun s f h => ?illegal,
    fun s x h => ?refused, fun s hlegal => step_next_of_legal fun e he => hlegal e (List.mem_of_mem_head? he)⟩
  case fault =>
    have hl : accessLegal off bytes = false := by
      rw [← Bool.not_eq_true, accessLegal_iff]
      omega
    rw [step_cons h, serve_port, portAccess_illegal hl]
  case goesOn => simp [takeInput, h]
  case served =>
    have hl : accessLegal off 4 = true := (accessLegal_iff off 4).mpr ⟨rfl, hal⟩
    exact step_next_of_legal (by simp [h, Input.legal, hl])
  case illegal =>
    rcases step_next_or_illegal s with ⟨t, ht⟩ | ⟨e, rest, hin, hl⟩
    · cases ht.symm.trans h
    · exact ⟨e, by simp [hin], hl⟩
  case refused =>
    rcases step_next_or_illegal s with ⟨t, ht⟩ | ⟨e, rest, hin, hl⟩
    · cases ht.symm.trans h
    · obtain ⟨off, hf⟩ := step_fault_of_illegal hin hl
      cases hf.symm.trans h

/-! ### The address decode -/

/-- The page of the window and the place in it, as one range of addresses (R51). -/
theorem windowOffset_eq_some_iff (addr : Nat) (off : BitVec 12) :
    windowOffset addr = some off ↔
      Config.rc5Base ≤ addr ∧ addr < Config.rc5Base + 0x1000 ∧ off.toNat = addr - Config.rc5Base := by
  unfold windowOffset Config.rc5Base
  generalize Config.rc5Page = page
  have hpage : addr / 0x1000 = page ↔ page * 0x1000 ≤ addr ∧ addr < page * 0x1000 + 0x1000 := by omega
  rw [Option.ite_none_right_eq_some, Option.some.injEq, ← BitVec.toNat_inj, BitVec.toNat_ofNat, hpage, and_assoc]
  refine and_congr_right fun hlo => and_congr_right fun hhi => ?_
  have hoff : addr % 0x1000 % 2 ^ 12 = addr - page * 0x1000 := by omega
  rw [hoff, eq_comm]

/-- Settles O29: the decode is a range, and a bus access in it is served as the port access at its offset. -/
theorem windowDecode : Obligations.WindowDecode := by
  refine ⟨⟨Config.rc5Page, Nat.mul_comm _ _⟩, windowOffset_eq_some_iff, fun s addr bytes kind rest h =>
    ⟨fun off hw => ?inside, fun hw => ?outside⟩⟩
  case inside =>
    rw [step_cons h, serve_bus, hw, step_cons (s := { s with inputs := .port off bytes kind :: rest }) rfl, serve_port]
    simp [takeInput, h]
  case outside =>
    rw [step_cons h, serve_bus, hw]
    simp [takeInput, h]

/-! ### The register map -/

theorem regAt_key : ∀ k : Fin 64, regAt (BitVec.ofNat 12 (0x100 + 4 * k.val)) = .key k := by decide

theorem accessLegal_key : ∀ k : Fin 64, accessLegal (BitVec.ofNat 12 (0x100 + 4 * k.val)) 4 = true := by decide

/-- The two ranges of the window that hold no register (10_state.md R22). -/
theorem regAt_reserved {off : BitVec 12} (h : (0x030 ≤ off.toNat ∧ off.toNat ≤ 0x0FF) ∨ 0x200 ≤ off.toNat) :
    regAt off = .reserved := by
  have hn : (12 ≤ off.toNat / 4 ∧ off.toNat / 4 < 64) ∨ 128 ≤ off.toNat / 4 := by omega
  unfold regAt
  generalize off.toNat / 4 = n at hn
  have hdata : ¬ (8 ≤ n ∧ n < 12) := by omega
  have hkey : ¬ (64 ≤ n ∧ n < 128) := by omega
  split
  iterate 8 omega
  rw [if_neg hdata, if_neg hkey]

/-- Settles O30: the named places by evaluation, the others as two ranges. -/
theorem registerMapOffsets : Obligations.RegisterMapOffsets := by
  refine ⟨?_, ?_, ?_, ?_, ?_, ?_, ?_, ?_, regAt_data, regAt_key, fun off => regAt_reserved⟩
  all_goals decide

/-! ### Places with no register, and read-only registers -/

/-- A write to a read-only register or a reserved place is ignored (20_memory.md R54). -/
theorem writeReg_ignored {r : RegName} (hr : r ∈ [.id, .cap, .skdataLo, .skdataHi, .reserved]) (v : Reg32) (s : State) :
    writeReg r v s = .next s := by
  simp only [List.mem_cons, List.not_mem_nil, or_false] at hr
  rcases hr with rfl | rfl | rfl | rfl | rfl <;> rfl

/-- Settles O32: CMD and a reserved place read 0, and neither is a buffer register; a write to a read-only or reserved place is
ignored by the register it reaches. -/
theorem reservedPlacesReadZeroIgnoreWrites : Obligations.ReservedPlacesReadZeroIgnoreWrites := by
  intro s off rest hal
  have hl : accessLegal off 4 = true := (accessLegal_iff off 4).mpr ⟨rfl, hal⟩
  have reserved : (0x030 ≤ off.toNat ∧ off.toNat ≤ 0x0FC) ∨ 0x200 ≤ off.toNat → regAt off = .reserved := fun h =>
    regAt_reserved (by omega)
  refine ⟨fun hoff h => ?read, fun v hoff h => ?write⟩
  case read =>
    have hreg : regAt off = .cmd ∨ regAt off = .reserved := by
      rcases hoff with rfl | hoff
      · exact .inl (by decide)
      · exact .inr (reserved hoff)
    rcases hreg with hreg | hreg <;>
    · rw [step_port_read_defined hl h (by simp [hreg, RegName.isBuffer]), hreg]
      rfl
  case write =>
    have hreg : regAt off ∈ [.id, .cap, .skdataLo, .skdataHi, .reserved] := by
      rcases hoff with hoff | hoff
      · simp only [List.mem_cons, List.not_mem_nil, or_false] at hoff
        rcases hoff with rfl | rfl | rfl | rfl <;> decide
      · simp [reserved hoff]
    rw [step_port_write hl h, writeReg_ignored hreg]

end Sys2Proof.Machine
end

section
/-! PROOFS. 10_state.md section 2 and 20_memory.md sections 2 and 3: reads, STATUS, CTRL, the subkey readback, KEYk, the layout of
the block and of the key. -/

namespace Sys2Proof.Machine

/-! ### Reads -/

/-- A read of a buffer register while BUSY = 1 gives the next free value (70_reset_and_hazards.md R176). -/
theorem readReg_free {r : RegName} {s : State} (hb : s.busy = true) (hr : r.isBuffer = true) :
    readReg r s = (Config.freeRead s.draws, useDraw s) := by
  simp [readReg, hb, hr]

/-- Every other read gives the defined value. -/
theorem readReg_defined {r : RegName} {s : State} (h : (s.busy && r.isBuffer) = false) : readReg r s = (s.regValue r, s) := by
  simp [readReg, h]

/-- No register's value depends on the inputs to come. -/
@[simp] theorem takeInput_regValue (s : State) (r : RegName) : (takeInput s).regValue r = s.regValue r := by
  cases r <;> rfl

/-- Settles O33: a read leaves the state but for the count of free values. -/
theorem readsHaveNoSideEffect : Obligations.ReadsHaveNoSideEffect := by
  intro s r ha
  refine ⟨(readReg r (takeInput s)).1, _, step_of_read ha, ?_⟩
  rcases readReg_state r (takeInput s) with h | h <;> rw [h] <;> rfl

/-- Settles O42: the buffer registers are those whose read is free while BUSY = 1. -/
theorem readsWhileBusy : Obligations.ReadsWhileBusy := by
  intro s r hb ha
  rw [step_of_read ha]
  cases hr : r.isBuffer with
  | true =>
    rw [readReg_free (s := takeInput s) hb hr]
    cases r with
    | skdataLo | skdataHi | data | key => rfl
    | id | cap | ctrl | status | cmd | skidx | reserved => cases hr
  | false =>
    rw [readReg_defined (by simp [hr]), takeInput_regValue]
    cases r with
    | skdataLo | skdataHi | data | key => cases hr
    | id | cap | ctrl | status | cmd | skidx | reserved => rfl

/-! ### STATUS and CTRL -/

/-- The fields of a word laid out as STATUS is (10_state.md R26), each read at its place. -/
theorem extract_statusLayout (r : BitVec 8) (w : BitVec 2) (c : BitVec 4) (errv skv done busy : BitVec 1) :
    let v := r ++ 0#6 ++ w ++ 0#4 ++ c ++ 0#4 ++ errv ++ skv ++ done ++ busy
    (v.extractLsb' 0 1 = busy ∧ v.extractLsb' 1 1 = done ∧ v.extractLsb' 2 1 = skv ∧ v.extractLsb' 3 1 = errv) ∧
    (v.extractLsb' 4 4 = 0 ∧ v.extractLsb' 12 4 = 0 ∧ v.extractLsb' 18 6 = 0) ∧
    v.extractLsb' 8 4 = c ∧ v.extractLsb' 16 2 = w ∧ v.extractLsb' 24 8 = r := by
  simp (disch := decide) only [BitVec.extractLsb'_append_eq_of_le, BitVec.extractLsb'_append_eq_of_add_le, Nat.reduceSub,
    BitVec.extractLsb'_eq_self]
  decide

/-- A flag is the bit of its one-bit field. -/
theorem getLsbD_eq_of_extract {v : Reg32} {i : Nat} {f : Bool} (h : v.extractLsb' i 1 = flagBit f) : v.getLsbD i = f := by
  simpa [flagBit] using congrArg (·.getLsbD 0) h

/-- ERR's codes as numbers (60_exceptions.md R152). -/
theorem errCode_code_toNat (e : ErrCode) :
    e.code.toNat =
      (match e with | .none => 0 | .illegalOp => 1 | .rsvdNz => 2 | .badW => 3 | .badR => 4 | .noKey => 5 | .busy => 6) := by
  cases e <;> rfl

/-- A width select read back names the width it was made from (30_encoding.md R74). -/
theorem decodeW_wselOf (W : Width) : decodeW (wselOf W) = some W := by
  cases W <;> rfl

/-- Settles O34: STATUS is no buffer register, so its read is the word of its fields. -/
theorem statusReadFields : Obligations.StatusReadFields := by
  intro s rest h
  obtain ⟨⟨hbusy, hdone, hskv, herrv⟩, ⟨hz4, hz12, hz18⟩, herr, hW, hR⟩ := extract_statusLayout s.curR (wselOf s.curW) s.err.code
    (flagBit s.errv) (flagBit s.skv) (flagBit s.done) (flagBit s.busy)
  refine ⟨s.statusWord, step_port_read_defined (by decide) h (Bool.and_false _), getLsbD_eq_of_extract hbusy,
    getLsbD_eq_of_extract hdone, getLsbD_eq_of_extract hskv, getLsbD_eq_of_extract herrv, hz4, hz12, hz18, ?_, ?_, hR⟩
  · exact (congrArg BitVec.toNat herr).trans (errCode_code_toNat s.err)
  · exact (congrArg decodeW hW).trans (decodeW_wselOf s.curW)

/-- CTRL's two enables, as they were written, and 0 elsewhere (10_state.md R25). -/
theorem ctrlWord_writeCtrl (v : Reg32) (s : State) : (writeCtrl v s).ctrlWord = v &&& 3#32 := by
  apply BitVec.eq_of_getLsbD_eq
  intro i hi
  show BitVec.getLsbD (0#30 ++ flagBit (v.getLsbD 1) ++ flagBit (v.getLsbD 0)) i = (v &&& 3#32).getLsbD i
  rw [BitVec.getLsbD_append, BitVec.getLsbD_append]
  interval_cases i <;> simp [flagBit]

/-- Settles O35: the write, then the read of the state it leaves. -/
theorem ctrlWriteThenRead : Obligations.CtrlWriteThenRead := by
  intro s v rest h
  have hwrite := step_port_write (by decide) h
  have hread := step_port_read_defined
    (s := writeCtrl v { s with inputs := .port 0x008#12 4 .read :: rest, resp := .written }) (by decide) rfl (Bool.and_false _)
  rw [run_succ_of_next hwrite, run_succ_of_next hread, run_zero, ← ctrlWord_writeCtrl]
  rfl

/-! ### The subkey readback -/

/-- SKDATA_LO and SKDATA_HI: two read-only buffer registers, the two halves of one value (10_state.md R35). -/
theorem skdata_halves {off : BitVec 12} {lo : Nat} (h : (off, lo) ∈ [(0x018#12, 0), (0x01C#12, 32)]) :
    accessLegal off 4 = true ∧ (regAt off).isBuffer = true ∧ regAt off ∈ [.id, .cap, .skdataLo, .skdataHi, .reserved] ∧
    ∀ s : State, s.regValue (regAt off) = s.skdata.extractLsb' lo 32 := by
  simp only [List.mem_cons, Prod.mk.injEq, List.not_mem_nil, or_false] at h
  rcases h with ⟨rfl, rfl⟩ | ⟨rfl, rfl⟩ <;> exact ⟨by decide, by decide, by decide, fun _ => rfl⟩

/-- Inside a valid table the readback is the entry that IDX names. -/
theorem skdata_of_lt {s : State} (hk : s.skv = true) (hidx : s.skidx.toNat < 2 * (s.curR.toNat + 1)) :
    s.skdata = s.sub[s.skidx.toNat] := by
  rw [State.skdata, if_neg (by simp [hk, hidx]), subAt_of_lt]

/-- With no valid table, and past its end, the readback is 0. -/
theorem skdata_eq_zero {s : State} (h : s.skv = false ∨ 2 * (s.curR.toNat + 1) ≤ s.skidx.toNat) : s.skdata = 0 := if_pos h

/-- Settles O37: the two halves alike, by BUSY and by where IDX stands. -/
theorem subkeyReadback : Obligations.SubkeyReadback := by
  intro s rest off lo hoff
  obtain ⟨hl, hbuf, hro, hval⟩ := skdata_halves hoff
  refine ⟨fun h => ⟨fun hb hk hidx => ?entry, fun hb hout => ?zero, fun hb => ?free⟩, fun v h => ?write⟩
  case entry => rw [step_port_read_defined hl h (by simp [hb]), hval, skdata_of_lt hk hidx]
  case zero =>
    rw [step_port_read_defined hl h (by simp [hb]), hval, skdata_eq_zero hout]
    simp
  case free =>
    rw [step_port_read hl h, hb, hbuf]
    rfl
  case write => rw [step_port_write hl h, writeReg_ignored hro]

/-- In a state that meets the invariant the readback is a word of the table in force, zero-extended, or 0 (R35, R38). -/
theorem State.Inv.skdata_eq_setWidth {s : State} (hi : s.Inv) : ∃ w : Word s.curW, s.skdata = w.setWidth 64 := by
  by_cases hout : s.skv = false ∨ 2 * (s.curR.toNat + 1) ≤ s.skidx.toNat
  · exact ⟨0, by simp [skdata_eq_zero hout]⟩
  · rw [not_or, Bool.not_eq_false, not_le] at hout
    obtain ⟨hk, hidx⟩ := hout
    obtain ⟨-, key, -, hsub⟩ := hi.table hk
    refine ⟨(expandKey s.curW s.curR.toNat key).getD s.skidx.toNat 0, ?_⟩
    simp only [skdata_of_lt hk hidx, hsub, storeTable_get]

/-- Zero-extension puts nothing above the word. -/
theorem extract_setWidth_above {n : Nat} (w : BitVec n) (m : Nat) {lo : Nat} (len : Nat) (h : n ≤ lo) :
    (w.setWidth m).extractLsb' lo len = 0 := by
  apply BitVec.eq_of_getLsbD_eq
  intro i hi
  simp [BitVec.getLsbD_of_ge w (lo + i) (by omega)]

/-- Settles O38: the readback is a zero-extended word of the table's width. -/
theorem narrowReadbackIsZeroExtended : Obligations.NarrowReadbackIsZeroExtended := by
  intro s hi
  obtain ⟨w, hw⟩ := hi.skdata_eq_setWidth
  rw [hw]
  refine ⟨fun hne => extract_setWidth_above w 64 32 ?_, fun h16 => extract_setWidth_above w 64 16 ?_⟩
  · cases hW : s.curW with
    | w16 | w32 => decide
    | w64 => exact absurd hW hne
  · rw [h16]
    decide

/-! ### KEYk -/

/-- Bit p of KEYk lies in byte p / 8 of its four bytes of K (10_state.md R37). -/
theorem keyReg_getLsbD (s : State) (k : Fin 64) {p : Nat} (hp : p < 32) :
    (s.keyReg k).getLsbD p = (s.key[4 * k.val + p / 8]).getLsbD (p % 8) := by
  show BitVec.getLsbD (s.key[4 * k.val + 3] ++ s.key[4 * k.val + 2] ++ s.key[4 * k.val + 1] ++ s.key[4 * k.val]) p = _
  iterate 3 rw [BitVec.getLsbD_append]
  interval_cases p <;> simp

/-- Byte n of K is the byte lane n mod 4 of KEY(n div 4) (20_memory.md R56). -/
theorem keyReg_byte (s : State) (k : Fin 64) (n : Fin 256) (h : n.val / 4 = k.val) :
    (s.keyReg k).extractLsb' (8 * (n.val % 4)) 8 = s.key[n] := by
  apply BitVec.eq_of_getLsbD_eq
  intro i hi
  have hbyte : 4 * k.val + (8 * (n.val % 4) + i) / 8 = n.val := by omega
  have hbit : (8 * (n.val % 4) + i) % 8 = i := by omega
  rw [BitVec.getLsbD_extractLsb', keyReg_getLsbD s k (by omega)]
  simp [hbyte, hbit, hi]

/-- Settles O40: the write is setKey, the read is that register's value. -/
theorem keyRegisterAccess : Obligations.KeyRegisterAccess := by
  intro s k rest hb
  refine ⟨fun v h => ⟨setKey k v { s with inputs := rest, resp := .written }, ?write, ?frame, fun n => ?byte⟩,
    fun h => ⟨s.keyReg k, ?read, fun n hn => keyReg_byte s k n hn⟩⟩
  case write =>
    have hb' : State.busy { s with inputs := rest, resp := .written } = false := hb
    rw [step_port_write (accessLegal_key k) h, regAt_key, writeReg, writeUnlessBusy, hb']
    rfl
  case frame => apply State.ext_fields <;> simp
  case byte => exact setKey_byte k v _ n.val n.isLt
  case read => rw [step_port_read_defined (accessLegal_key k) h (by rw [hb, Bool.false_and]), regAt_key, State.regValue]

/-! ### The layout of the block and of the key -/

/-- A slice of a slice is one slice of the whole. -/
theorem extract_extract {n : Nat} (x : BitVec n) (lo len lo' len' : Nat) (h : lo' + len' ≤ len) :
    (x.extractLsb' lo len).extractLsb' lo' len' = x.extractLsb' (lo + lo') len' := by
  apply BitVec.eq_of_getLsbD_eq
  intro i hi
  have hlt : lo' + i < len := by omega
  simp [hi, hlt, Nat.add_assoc]

/-- Settles O43: every part of a DATA register or of a word is a slice of BLK. -/
theorem blockLayout : Obligations.BlockLayout := by
  intro s
  refine ⟨?_, ?_, rfl, rfl, ?_, ?_, fun W k => ⟨fun hk => ?_, fun hk => ?_⟩⟩
  · exact (extract_extract s.blk 0 32 0 16 (by decide)).symm
  · exact (extract_extract s.blk 0 32 16 16 (by decide)).symm
  · exact (BitVec.extractLsb'_append_extractLsb'_eq_extractLsb' (x := s.blk) (start₁ := 0) (len₁ := 32) (len₂ := 32) rfl).symm
  · exact (BitVec.extractLsb'_append_extractLsb'_eq_extractLsb' (x := s.blk) (start₁ := 64) (len₁ := 32) (len₂ := 32) rfl).symm
  · rw [blockA, extract_extract _ _ _ _ _ (by rw [W.bits_eq]; omega), Nat.zero_add]
  · rw [blockB, extract_extract _ _ _ _ _ (by rw [W.bits_eq]; omega), W.bits_eq, Nat.mul_add]

/-- Byte k of the SecretKey is K[k] (10_state.md R39). -/
theorem keyBytes_getElem? (key : Vector Byte 256) {b k : Nat} (hk : k < b) (h256 : k < 256) :
    (keyBytes key b)[k]? = some key[k] := by
  simp [keyBytes, hk, h256]

/-- For W = 32 a key word before mixing is the register that holds its four bytes (20_memory.md R56). -/
theorem packL_w32_eq_keyReg (s : State) {b : Nat} (hb : b ≤ 255) (k : Fin 64) (hk : 4 * k.val + 3 < b) :
    (packL .w32 (keyBytes s.key b))[k.val]? = some (s.keyReg k) := by
  obtain ⟨hlen, hbits⟩ := packLPlacesBytes .w32 (keyBytes s.key b)
  have hlt : k.val < (packL .w32 (keyBytes s.key b)).length := by
    rw [hlen, length_keyBytes _ _ (by omega), Width.bytes]
    omega
  refine (List.getElem?_eq_getElem hlt).trans (congrArg some ?_)
  apply BitVec.eq_of_getLsbD_eq
  intro p hp
  have hp : p < 32 := hp
  have hbit := hbits k.val p hlt hp
  rw [List.getD_eq_getElem _ _ hlt, List.getD_eq_getElem?_getD, Width.bytes, Nat.mul_comm,
    keyBytes_getElem? _ (by omega) (by omega)] at hbit
  exact hbit.trans (keyReg_getLsbD s k hp).symm

/-- Settles O44: byte n of KEYk is byte 4k+n of K, and so it is of PackL's word k for W = 32. -/
theorem keyByteOrder : Obligations.KeyByteOrder := by
  intro s
  exact ⟨fun k n hn => keyReg_byte s n k hn.symm, fun b hb => ⟨length_keyBytes s.key b (by omega), fun k hk =>
    keyBytes_getElem? s.key hk k.isLt⟩, fun b k hb hk => packL_w32_eq_keyReg s hb k hk⟩

end Sys2Proof.Machine
end

section
/-! PROOFS. 40_word_ops.md: rotations (R92), exclusive or (R93) and the inverse laws (R94). -/

namespace Sys2Proof

theorem Width.bits_pos (W : Width) : 0 < W.bits := by cases W <;> decide

end Sys2Proof

namespace Sys2Proof.Machine

variable {W : Width}

/-! ### Rotations -/

/-- The block's rotations are BitVec's: an amount of 0 modulo W needs no case of its own (R92). -/
theorem rotlW_eq_rotateLeft (x : Word W) (s : Nat) : rotlW x s = x.rotateLeft s := by
  simp only [rotlW, BitVec.rotateLeft_def]
  split
  · next h => simp [h, BitVec.ushiftRight_eq_zero]
  · rfl

theorem rotrW_eq_rotateRight (x : Word W) (s : Nat) : rotrW x s = x.rotateRight s := by
  simp only [rotrW, BitVec.rotateRight_def]
  split
  · next h => simp [h]
  · rfl

/-- rotl_W moves bit k to bit (k + s) mod W (R92). -/
theorem rotlW_getLsbD (x : Word W) (s : Nat) {k : Nat} (hk : k < W.bits) :
    (rotlW x s).getLsbD ((k + s) % W.bits) = x.getLsbD k := by
  have hs : s % W.bits < W.bits := Nat.mod_lt _ W.bits_pos
  rw [rotlW_eq_rotateLeft, BitVec.getLsbD_rotateLeft, Nat.add_mod, Nat.mod_eq_of_lt hk]
  generalize s % W.bits = s at hs ⊢
  rcases Nat.lt_or_ge (k + s) W.bits with h | h
  · rw [Nat.mod_eq_of_lt h]
    simp [h]
  · rw [Nat.mod_eq_sub_mod h, Nat.mod_eq_of_lt (by omega)]
    have hlt : k + s - W.bits < s := by omega
    have hbit : W.bits - s + (k + s - W.bits) = k := by omega
    simp [hlt, hbit]

/-- rotr_W moves bit (k + s) mod W to bit k (R92). -/
theorem rotrW_getLsbD (x : Word W) (s : Nat) {k : Nat} (hk : k < W.bits) :
    (rotrW x s).getLsbD k = x.getLsbD ((k + s) % W.bits) := by
  have hs : s % W.bits < W.bits := Nat.mod_lt _ W.bits_pos
  rw [rotrW_eq_rotateRight, BitVec.getLsbD_rotateRight, Nat.add_mod, Nat.mod_eq_of_lt hk]
  generalize s % W.bits = s at hs ⊢
  rcases Nat.lt_or_ge (k + s) W.bits with h | h
  · rw [Nat.mod_eq_of_lt h]
    have hlt : k < W.bits - s := by omega
    simp [hlt, Nat.add_comm]
  · rw [Nat.mod_eq_sub_mod h, Nat.mod_eq_of_lt (by omega)]
    have hge : ¬ k < W.bits - s := by omega
    have hbit : k - (W.bits - s) = k + s - W.bits := by omega
    simp [hge, hbit, hk]

/-- Only the amount modulo W matters (R92). -/
theorem rotlW_mod (x : Word W) (s : Nat) : rotlW x (s % W.bits) = rotlW x s := by
  simp only [rotlW, Nat.mod_mod]

theorem rotrW_mod (x : Word W) (s : Nat) : rotrW x (s % W.bits) = rotrW x s := by
  simp only [rotrW, Nat.mod_mod]

/-- Settles O49: the places of the bits, and the amount 0 modulo W as the rotations' own first case. -/
theorem rotationsMoveBits : Obligations.RotationsMoveBits := by
  intro W x s k hk
  exact ⟨rotlW_getLsbD x s hk, rotrW_getLsbD x s hk, (rotlW_mod x s).symm, (rotrW_mod x s).symm, fun hs =>
    ⟨if_pos hs, if_pos hs⟩⟩

/-! ### The inverse laws -/

/-- Bit k goes to (k + s) mod W and comes back (R94). -/
@[simp] theorem rotrW_rotlW (x : Word W) (s : Nat) : rotrW (rotlW x s) s = x := by
  apply BitVec.eq_of_getLsbD_eq
  intro k hk
  rw [rotrW_getLsbD _ s hk, rotlW_getLsbD _ s hk]

/-- Bit k comes from the place that is s before it modulo W, so the law holds in the other order too. -/
@[simp] theorem rotlW_rotrW (x : Word W) (s : Nat) : rotlW (rotrW x s) s = x := by
  apply BitVec.eq_of_getLsbD_eq
  intro k hk
  have hs : s % W.bits < W.bits := Nat.mod_lt _ W.bits_pos
  have hback : ((k + (W.bits - s % W.bits)) % W.bits + s) % W.bits = k := by
    have hsum : k + (W.bits - s % W.bits) + s = k + W.bits * (s / W.bits + 1) := by
      have hdiv := Nat.div_add_mod s W.bits
      rw [Nat.mul_add]
      omega
    rw [Nat.mod_add_mod, hsum, Nat.add_mul_mod_self_left, Nat.mod_eq_of_lt hk]
  have hlt : (k + (W.bits - s % W.bits)) % W.bits < W.bits := Nat.mod_lt _ W.bits_pos
  conv_lhs => rw [← hback]
  rw [rotlW_getLsbD _ s hlt, rotrW_getLsbD _ s hlt, hback]

@[simp] theorem subW_addW (x y : Word W) : subW (addW x y) y = x := BitVec.add_sub_cancel x y

@[simp] theorem addW_subW (x y : Word W) : addW (subW x y) y = x := BitVec.sub_add_cancel x y

@[simp] theorem xorW_xorW (x y : Word W) : xorW (xorW x y) y = x := by
  rw [xorW, xorW, BitVec.xor_assoc, BitVec.xor_self, BitVec.xor_zero]

/-- Settles O50: the three laws, and Boolean exclusive or spelt out. -/
theorem inverseLaws : Obligations.InverseLaws := by
  intro W x y s
  refine ⟨rotrW_rotlW x s, subW_addW x y, xorW_xorW x y, fun k _ => ?_⟩
  rw [xorW, BitVec.getLsbD_xor]
  cases x.getLsbD k <;> cases y.getLsbD k <;> rfl

end Sys2Proof.Machine
end

section
/-! PROOFS. 41_key_schedule.md: InitS (R100, R102) and the key bytes EXPAND reads (R106); 42_decrypt.md: EncRef (R122), the round-trip
law (R123), what DECRYPT reads, and the two commands together. -/

namespace Sys2Proof.Machine

variable {W : Width}

/-! ### InitS -/

/-- Each word of the fill is Q_W more than the one before it (R102). -/
theorem initFrom_getElem?_succ (n i : Nat) (x : Word W) (h : i + 1 < n) :
    (initFrom W n x)[i + 1]? = (initFrom W n x)[i]?.map fun y => addW y (magicQ W) := by
  induction n generalizing i x with
  | zero => omega
  | succ n ih =>
    cases i with
    | zero =>
      obtain ⟨n, rfl⟩ := Nat.exists_eq_add_of_lt (Nat.lt_of_succ_lt_succ h)
      simp [initFrom, Nat.add_comm]
    | succ i => simpa [initFrom] using ih i _ (by omega)

/-- Word i of the fill is its first word and i times Q_W, modulo 2^W. -/
theorem initFrom_getElem?_toNat (n i : Nat) (x : Word W) (h : i < n) :
    (initFrom W n x)[i]?.map BitVec.toNat = some ((x.toNat + i * (magicQ W).toNat) % 2 ^ W.bits) := by
  induction n generalizing i x with
  | zero => omega
  | succ n ih =>
    cases i with
    | zero => simp [initFrom, Nat.mod_eq_of_lt x.isLt]
    | succ i =>
      have hsum : x.toNat + (magicQ W).toNat + i * (magicQ W).toNat = x.toNat + (i + 1) * (magicQ W).toNat := by ring
      simpa [initFrom, addW_toNat, hsum] using ih i (addW x (magicQ W)) (by omega)

/-- Settles O51: the constants by evaluation, the words by induction on the fill. -/
theorem initSClosedForm : Obligations.InitSClosedForm := by
  refine ⟨by decide, fun W r => ⟨length_initS W r, rfl, fun i hi => initFrom_getElem?_succ _ i _ hi, fun i hi =>
    initFrom_getElem?_toNat _ i _ hi⟩⟩

/-! ### What EXPAND reads -/

/-- A step that completes a pending command is that command's effect, and the end of the completion (43_control.md R137). -/
theorem eq_finish_of_engineTurn {s t : State} {p : Pending} (he : s.engineTurn = true) (hp : s.pend = some p)
    (h : step s = .next t) : t = finish (completionEffect p (takeInput s)) := by
  have hp : (takeInput s).pend = some p := hp
  rw [step_of_engineTurn he, engineStep_pending hp] at h
  exact (Host.Outcome.next.inj h).symm

/-- Settles O54: the table is ExpandKey of the key bytes, which K[0..b-1] make. -/
theorem expandReadsOnlyTheKey : Obligations.ExpandReadsOnlyTheKey := by
  intro s s' t t' W r b hp hp' he he' hkey h h'
  obtain rfl := eq_finish_of_engineTurn he hp h
  obtain rfl := eq_finish_of_engineTurn he' hp' h'
  refine ⟨?_, rfl, rfl, rfl⟩
  show storeTable (expandKey W r.toNat (keyBytes s.key b.toNat)) = storeTable (expandKey W r.toNat (keyBytes s'.key b.toNat))
  rw [keyBytes_congr s.key s'.key b.toNat hkey]

/-! ### EncRef -/

/-- Settles O59: A and B are the two words of the block after rounds 1 to i. -/
theorem encRefRounds : Obligations.EncRefRounds := by
  intro W S r ab
  refine ⟨fun i => (encryptRounds S i (addW ab.1 (S 0), addW ab.2 (S 1))).1,
    fun i => (encryptRounds S i (addW ab.1 (S 0), addW ab.2 (S 1))).2, rfl, rfl, fun i hi _ => ?_, rfl⟩
  obtain ⟨i, rfl⟩ := Nat.exists_eq_add_of_le' hi
  exact ⟨rfl, rfl⟩

/-! ### The round-trip law -/

section
variable (S : Nat → Word W) (i r : Nat) (ab : Word W × Word W)

@[simp] theorem decryptRound_encryptRound : decryptRound S i (encryptRound S i ab) = ab := by
  simp [decryptRound, encryptRound]

@[simp] theorem encryptRound_decryptRound : encryptRound S i (decryptRound S i ab) = ab := by
  simp [decryptRound, encryptRound]

/-- Round r is the last that EncRef makes and the first that DecryptBlock undoes. -/
theorem decryptRounds_encryptRounds : decryptRounds S r (encryptRounds S r ab) = ab := by
  induction r with
  | zero => rfl
  | succ r ih => rw [encryptRounds, decryptRounds, decryptRound_encryptRound, ih]

theorem encryptRounds_decryptRounds : encryptRounds S r (decryptRounds S r ab) = ab := by
  induction r generalizing ab with
  | zero => rfl
  | succ r ih => rw [encryptRounds, decryptRounds, ih, encryptRound_decryptRound]

theorem decryptBlock_encRef : decryptBlock S r (encRef S r ab) = ab := by
  simp [decryptBlock, encRef, decryptRounds_encryptRounds]

theorem encRef_decryptBlock : encRef S r (decryptBlock S r ab) = ab := by
  simp [decryptBlock, encRef, encryptRounds_decryptRounds]

end

/-- Settles O55: the rounds undo each other one by one, and so do the additions and subtractions of S[0] and S[1]. -/
theorem decryptUndoesEncryption : Obligations.DecryptUndoesEncryption :=
  fun _ S r ab => ⟨decryptBlock_encRef S r ab, encRef_decryptBlock S r ab⟩

/-! ### What DECRYPT reads -/

/-- BLK[2W-1:0] is its two words: two blocks agree on it exactly when they agree on both (20_memory.md R55). -/
theorem extract_block_eq_iff (x y : BitVec 128) :
    x.extractLsb' 0 (2 * W.bits) = y.extractLsb' 0 (2 * W.bits) ↔ blockA W x = blockA W y ∧ blockB W x = blockB W y := by
  have low : ∀ z : BitVec 128, blockA W z = (z.extractLsb' 0 (2 * W.bits)).extractLsb' 0 W.bits := fun z => by
    rw [extract_extract _ _ _ _ _ (by omega)]
    rfl
  have high : ∀ z : BitVec 128, blockB W z = (z.extractLsb' 0 (2 * W.bits)).extractLsb' W.bits W.bits := fun z => by
    rw [extract_extract _ _ _ _ _ (by omega), Nat.zero_add]
    rfl
  refine ⟨fun h => ⟨by rw [low, low, h], by rw [high, high, h]⟩, fun ⟨hA, hB⟩ => BitVec.eq_of_getLsbD_eq fun k hk => ?_⟩
  have bitA := congrArg (·.getLsbD k) hA
  have bitB := congrArg (·.getLsbD (k - W.bits)) hB
  by_cases hlt : k < W.bits
  · simpa [blockA, hk, hlt] using bitA
  · have hsub : k - W.bits < W.bits := by omega
    have hadd : W.bits + (k - W.bits) = k := by omega
    simpa [blockB, hk, hsub, hadd] using bitB

/-- Settles O56: DECRYPT's result is DecryptBlock of the two words of the block, which reads S[0..2r+1] only. -/
theorem decryptReadsOnlyTableAndBlock : Obligations.DecryptReadsOnlyTableAndBlock := by
  intro s s' t t' hp hp' he he' hW hR hsub hblk h h'
  obtain rfl := eq_finish_of_engineTurn he hp h
  obtain rfl := eq_finish_of_engineTurn he' hp' h'
  have heff : (decryptEffect (takeInput s)).blk = _ := decryptEffect_blk_of_width (takeInput s) s.curW rfl
  have heff' : (decryptEffect (takeInput s')).blk = _ := decryptEffect_blk_of_width (takeInput s') s.curW hW.symm
  obtain ⟨hA, hB⟩ := (extract_block_eq_iff _ _).mp hblk
  have htable : ∀ n, n < 2 * (s.curR.toNat + 1) → (takeInput s).subkeys s.curW n = (takeInput s').subkeys s.curW n := by
    intro n hn
    have hlt : n < 512 := by omega
    simpa [State.subkeys, subAt_of_lt _ n hlt] using hsub ⟨n, hlt⟩ hn
  have hresult := decryptBlock_congr _ _ s.curR.toNat (blockA s.curW s.blk, blockB s.curW s.blk) htable
  rw [extract_block_eq_iff]
  simp only [completionEffect, finish_blk, heff, heff', blockA_setBlock, blockB_setBlock]
  simp only [takeInput_curR, takeInput_blk, ← hR, ← hA, ← hB, hresult, and_self]

/-! ### EXPAND, then DECRYPT -/

/-- A command's word written to an idle block, and then the engine's turn: where the issue makes p pending, the two steps are p's
acceptance and completion (43_control.md R136, R137). -/
theorem run_command {i : Instr} {p : Pending} {s u : State} (rest : List Input) (hd : decodeWord (encode i) = .command i)
    (hexec : exec i { s with inputs := .engine :: rest, resp := .written } = .next u) (hp : u.pend = some p)
    (hin : u.inputs = .engine :: rest) (k : Nat) :
    Sys2Proof.core.run (k + 2) { s with inputs := .port 0x010#12 4 (.write (encode i)) :: .engine :: rest } =
      Sys2Proof.core.run k (finish (completionEffect p { u with inputs := rest })) := by
  have hwrite := (step_cmd (s := { s with inputs := .port 0x010#12 4 (.write (encode i)) :: .engine :: rest }) rfl).trans
    ((presentCommand_command hd).trans hexec)
  have hengine : step u = .next (finish (completionEffect p { u with inputs := rest })) := by
    simpa only [State.engineNext, ← hin] using step_engineNext_of_pend rest hp
  rw [run_succ_of_next hwrite, run_succ_of_next hengine]

/-- The block once the EXPAND of W, r and b has been accepted and completed, with these inputs to come. -/
def State.expanded (s : State) (W : Width) (r b : BitVec 8) (rest : List Input) : State :=
  finish (completionEffect (.expand W r b)
    { s with
      pend := some (.expand W r b), done := false, skv := false, curW := .w16, curR := 0, inputs := rest, resp := .written })

theorem run_expand {s : State} {wsel : BitVec 2} {r : BitVec 8} (b : BitVec 8) (rest : List Input) (hb : s.busy = false)
    (hW : decodeW wsel = some W) (hr : r ≠ 0) (k : Nat) :
    Sys2Proof.core.run (k + 2)
        { s with inputs := .port 0x010#12 4 (.write (encode (.expand wsel r b))) :: .engine :: rest } =
      Sys2Proof.core.run k (s.expanded W r b rest) :=
  run_command rest (decodeWord_encode_expand wsel r b) (exec_expand_idle b hb hW hr) rfl rfl k

/-- The subkeys that a DECRYPT then finds are those that ExpandKey makes of the key. -/
theorem expanded_subkeys (s : State) (W : Width) (r b : BitVec 8) (rest : List Input) {n : Nat} (hn : n < 2 * (r.toNat + 1)) :
    (s.expanded W r b rest).subkeys W n = (expandKey W r.toNat (keyBytes s.key b.toNat)).getD n 0 := by
  refine subkeys_storeTable _ _ ?_ n (by omega)
  simp only [State.expanded, completionEffect, expandEffect, finish_sub, scrambleDatapath_sub]

/-- The block once a DECRYPT has been accepted and completed, with these inputs to come. -/
def State.decrypted (s : State) (rest : List Input) : State :=
  finish (completionEffect .decrypt { s with pend := some .decrypt, done := false, inputs := rest, resp := .written })

theorem run_decrypt {s : State} (rest : List Input) (hb : s.busy = false) (hk : s.skv = true) (k : Nat) :
    Sys2Proof.core.run (k + 2) { s with inputs := .port 0x010#12 4 (.write (encode .decrypt)) :: .engine :: rest } =
      Sys2Proof.core.run k (s.decrypted rest) :=
  run_command rest (by decide) (exec_decrypt_idle hb hk) rfl rfl k

/-- What DECRYPT leaves in BLK, for the width in force under another name. -/
theorem decrypted_blk (s : State) (rest : List Input) (h : s.curW = W) :
    (s.decrypted rest).blk =
      setBlock W s.blk (decryptBlock (s.subkeys W) s.curR.toNat (blockA W s.blk, blockB W s.blk)) :=
  decryptEffect_blk_of_width { s with pend := some .decrypt, done := false, inputs := rest, resp := .written } W h

/-- Settles O57: two commands, each accepted and completed; the second finds the first one's table, and DecryptBlock undoes
EncRef. -/
theorem expandThenDecryptRecoversPlaintext : Obligations.ExpandThenDecryptRecoversPlaintext := by
  intro s wsel W r b ab rest hb hW hr henc
  let u := s.expanded W r b (.port 0x010#12 4 (.write (encode .decrypt)) :: .engine :: rest)
  have hrun : Sys2Proof.core.run 4
      { s with inputs :=
          .port 0x010#12 4 (.write (encode (.expand wsel r b))) :: .engine ::
            .port 0x010#12 4 (.write (encode .decrypt)) :: .engine :: rest } = .next (u.decrypted rest) :=
    (run_expand b _ hb hW hr 2).trans (run_decrypt (s := u) rest rfl rfl 0)
  have hplain : decryptBlock (u.subkeys W) r.toNat (blockA W s.blk, blockB W s.blk) = ab := by
    rw [decryptBlock_congr _ _ _ _ fun n hn => expanded_subkeys s W r b _ hn]
    exact (congrArg _ henc).trans (decryptBlock_encRef _ r.toNat ab)
  have hblk : (u.decrypted rest).blk = setBlock W s.blk ab := (decrypted_blk u rest rfl).trans (congrArg _ hplain)
  refine ⟨_, hrun, ?_, rfl, rfl, rfl, rfl, rfl, rfl, rfl, rfl, rfl, fun k hk => ?_⟩
  · rw [hblk, extract_setBlock]
  · rw [hblk, setBlock_getLsbD_above _ _ hk]

end Sys2Proof.Machine
end
